-- ==== Sys2Proof/Word.lean ====
section
/-! DEFINITION. The value types of CORE (spec/00_scope.md R6): words, bytes, port addresses, word banks. -/

namespace Sys2Proof

/-- `u32`, the word of the word engines and of the host port (R5, R6).
`+` on it is `add32` (R10: wraps mod 2^32, no flag) and `^^^` is `xor32` (R11). -/
abbrev Word := BitVec 32

/-- `u8` (R6). `+` on it is `add8` (R13: mod 256) and `^^^` is `xor8` (R11). -/
abbrev Byte := BitVec 8

/-- A byte address of the register space, 12 bits, `0x000` to `0xFFF` (R60). -/
abbrev Addr := BitVec 12

/-- Sixteen words: the shape of `ST` and of `X` (R21, R22). -/
abbrev Bank := Vector Word 16

end Sys2Proof
end

