-- ==== Sys2Proof/Syntax.lean ====
section
/-! DEFINITION. The fifteen commands of CORE, one constructor per row of R97 (spec/opcode_table.json), in the table's order. -/

namespace Sys2Proof

/-- A command with its operands (R97). A word index is a `Fin 16`, since format Q gives it four bits (R93);
a length or an offset is the number its field holds (R94, R95, R96), and `Instr.wf` bounds it. -/
inductive Instr where
  | xcopy
  | xadd
  | cinit
  | cqr (a b c d : Fin 16)
  | cdr
  | cblock
  | cxcrypt (len : Nat)
  | sqr (a b c d : Fin 16)
  | sdr
  | sblock
  | rksa (keylen : Nat)
  | rnext
  | rxcrypt (len : Nat)
  | rdrop
  | kxor (off len : Nat)
deriving DecidableEq, Repr

end Sys2Proof
end

