-- ==== Sys2Proof/WellFormed.lean ====
section
/-! DEFINITION. Which instructions have an encoding: every operand fits its field (R93 to R96).
An operand a field can hold but the command does not accept (`CXCRYPT 300`) is well formed: it is an operand error at
execution, not an illegal encoding (R96). -/

namespace Sys2Proof

/-- Every operand fits the field its format gives it: 9 bits for the length of format L (R94), 8 and 7 bits for
the offset and the length of format C (R95). The indices of format Q fit by their type (R93). -/
def Instr.wf : Instr → Bool
  | .xcopy => true
  | .xadd => true
  | .cinit => true
  | .cqr _ _ _ _ => true
  | .cdr => true
  | .cblock => true
  | .cxcrypt len => decide (len < 512)
  | .sqr _ _ _ _ => true
  | .sdr => true
  | .sblock => true
  | .rksa keylen => decide (keylen < 512)
  | .rnext => true
  | .rxcrypt len => decide (len < 512)
  | .rdrop => true
  | .kxor off len => decide (off < 256) && decide (len < 128)

end Sys2Proof
end

