-- ==== Sys2Proof/Decode.lean ====
section
/-! DEFINITION. The command encoding (spec/30_encoding.md): the decoder, total on every 32-bit word and rejecting by name;
the encoder, from the formulas of R101; the opcode table of R97 as data; the pseudo-instructions of R102. -/

namespace Sys2Proof

/-- Why a word is no command (R98). Both reasons execute as `ILLEGAL_CMD`. -/
inductive DecodeError where
  /-- No row of R97 has this `op`. -/
  | unknownOpcode
  /-- The `op` is listed, and a must-be-zero bit of its format is 1. -/
  | reservedBits
deriving DecidableEq, Repr

/-- `w[hi:lo]` as a number (R6). -/
def field (w : Word) (hi lo : Nat) : Nat := w.toNat / 2 ^ lo % 2 ^ (hi + 1 - lo)

/-- `w[lo+3:lo]`, a four-bit word index (R93, R96). -/
def indexField (w : Word) (lo : Nat) : Fin 16 := ⟨w.toNat / 2 ^ lo % 16, Nat.mod_lt _ (by decide)⟩

/-- Format N, no operands: bits 23:0 must be 0 (R92). -/
def formatN (w : Word) (i : Instr) : Except DecodeError Instr :=
  if field w 23 0 = 0 then .ok i else .error .reservedBits

/-- Format Q, four word indices `a`, `b`, `c`, `d` in bits 15:12, 11:8, 7:4, 3:0: bits 23:16 must be 0 (R93). -/
def formatQ (w : Word) (mk : Fin 16 → Fin 16 → Fin 16 → Fin 16 → Instr) : Except DecodeError Instr :=
  if field w 23 16 = 0 then
    .ok (mk (indexField w 12) (indexField w 8) (indexField w 4) (indexField w 0))
  else .error .reservedBits

/-- Format L, one length in bits 8:0: bits 23:9 must be 0 (R94). -/
def formatL (w : Word) (mk : Nat → Instr) : Except DecodeError Instr :=
  if field w 23 9 = 0 then .ok (mk (field w 8 0)) else .error .reservedBits

/-- Format C, offset in bits 23:16 and length in bits 6:0: bits 15:7 must be 0 (R95). -/
def formatC (w : Word) (mk : Nat → Nat → Instr) : Except DecodeError Instr :=
  if field w 15 7 = 0 then .ok (mk (field w 23 16) (field w 6 0)) else .error .reservedBits

/-- The command a word encodes: the opcode `w[31:24]` alone selects the command and its format (R91, R97). -/
def decode (w : Word) : Except DecodeError Instr :=
  match field w 31 24 with
  | 0x01 => formatN w .xcopy
  | 0x02 => formatN w .xadd
  | 0x10 => formatN w .cinit
  | 0x12 => formatQ w .cqr
  | 0x13 => formatN w .cdr
  | 0x15 => formatN w .cblock
  | 0x16 => formatL w .cxcrypt
  | 0x22 => formatQ w .sqr
  | 0x23 => formatN w .sdr
  | 0x25 => formatN w .sblock
  | 0x30 => formatL w .rksa
  | 0x31 => formatN w .rnext
  | 0x32 => formatL w .rxcrypt
  | 0x33 => formatN w .rdrop
  | 0x40 => formatC w .kxor
  | _ => .error .unknownOpcode

/-- The 32-bit word whose low `nbits` bits are those of `w`, the rest 0: a command is one word (R90). -/
def tableWord (nbits w : Nat) : Word := BitVec.ofNat 32 (w % 2 ^ nbits)

/-- What the decoder reads from a word numbered as spec/opcode_table.json numbers it (bit 31 the most significant, R90). -/
def decodeTableWord (nbits w : Nat) : Option Instr :=
  match decode (tableWord nbits w) with
  | .ok i => some i
  | .error _ => none

/-! ### The encoder -/

/-- `w[31:24]` of a command (R97). -/
def Instr.opcode : Instr → Nat
  | .xcopy => 0x01
  | .xadd => 0x02
  | .cinit => 0x10
  | .cqr _ _ _ _ => 0x12
  | .cdr => 0x13
  | .cblock => 0x15
  | .cxcrypt _ => 0x16
  | .sqr _ _ _ _ => 0x22
  | .sdr => 0x23
  | .sblock => 0x25
  | .rksa _ => 0x30
  | .rnext => 0x31
  | .rxcrypt _ => 0x32
  | .rdrop => 0x33
  | .kxor _ _ => 0x40

/-- The operand part of `enc(...)`: `4096a + 256b + 16c + d`, `len`, `keylen`, `65536*off + len`, nothing (R101). -/
def Instr.operandBits : Instr → Nat
  | .cqr a b c d => 4096 * a.val + 256 * b.val + 16 * c.val + d.val
  | .sqr a b c d => 4096 * a.val + 256 * b.val + 16 * c.val + d.val
  | .cxcrypt len => len
  | .rxcrypt len => len
  | .rksa keylen => keylen
  | .kxor off len => 65536 * off + len
  | .xcopy => 0
  | .xadd => 0
  | .cinit => 0
  | .cdr => 0
  | .cblock => 0
  | .sdr => 0
  | .sblock => 0
  | .rnext => 0
  | .rdrop => 0

/-- `enc(...)` of a command (R101). -/
def encode (i : Instr) : Word := BitVec.ofNat 32 (i.opcode * 2 ^ 24 + i.operandBits)

/-! ### The opcode table as data -/

/-- The mnemonic of a command, as the assembler syntax writes it (R97, R101). -/
def Instr.mnemonic : Instr → String
  | .xcopy => "XCOPY"
  | .xadd => "XADD"
  | .cinit => "CINIT"
  | .cqr _ _ _ _ => "CQR"
  | .cdr => "CDR"
  | .cblock => "CBLOCK"
  | .cxcrypt _ => "CXCRYPT"
  | .sqr _ _ _ _ => "SQR"
  | .sdr => "SDR"
  | .sblock => "SBLOCK"
  | .rksa _ => "RKSA"
  | .rnext => "RNEXT"
  | .rxcrypt _ => "RXCRYPT"
  | .rdrop => "RDROP"
  | .kxor _ _ => "KXOR"

/-- One row of R97. -/
structure OpRow where
  op : Nat
  mnemonic : String
  matchBits : Word
  mask : Word
deriving DecidableEq, Repr

/-- The opcode map of R97, transcribed row by row; `decode` does not read it, so that each can be held against the other. -/
def opcodeTable : List OpRow :=
  [⟨0x01, "XCOPY", 0x01000000, 0xFFFFFFFF⟩,
   ⟨0x02, "XADD", 0x02000000, 0xFFFFFFFF⟩,
   ⟨0x10, "CINIT", 0x10000000, 0xFFFFFFFF⟩,
   ⟨0x12, "CQR", 0x12000000, 0xFFFF0000⟩,
   ⟨0x13, "CDR", 0x13000000, 0xFFFFFFFF⟩,
   ⟨0x15, "CBLOCK", 0x15000000, 0xFFFFFFFF⟩,
   ⟨0x16, "CXCRYPT", 0x16000000, 0xFFFFFE00⟩,
   ⟨0x22, "SQR", 0x22000000, 0xFFFF0000⟩,
   ⟨0x23, "SDR", 0x23000000, 0xFFFFFFFF⟩,
   ⟨0x25, "SBLOCK", 0x25000000, 0xFFFFFFFF⟩,
   ⟨0x30, "RKSA", 0x30000000, 0xFFFFFE00⟩,
   ⟨0x31, "RNEXT", 0x31000000, 0xFFFFFFFF⟩,
   ⟨0x32, "RXCRYPT", 0x32000000, 0xFFFFFE00⟩,
   ⟨0x33, "RDROP", 0x33000000, 0xFFFFFFFF⟩,
   ⟨0x40, "KXOR", 0x40000000, 0xFF00FF80⟩]

/-! ### Pseudo-instructions (R102) -/

/-- `CCOLS`, the ChaCha20 column round. -/
def ccols : List Instr := [.cqr 0 4 8 12, .cqr 1 5 9 13, .cqr 2 6 10 14, .cqr 3 7 11 15]

/-- `CDIAGS`, the ChaCha20 diagonal round. -/
def cdiags : List Instr := [.cqr 0 5 10 15, .cqr 1 6 11 12, .cqr 2 7 8 13, .cqr 3 4 9 14]

/-- `SCOLS`, the Salsa20 column round. -/
def scols : List Instr := [.sqr 0 4 8 12, .sqr 5 9 13 1, .sqr 10 14 2 6, .sqr 15 3 7 11]

/-- `SROWS`, the Salsa20 row round. -/
def srows : List Instr := [.sqr 0 1 2 3, .sqr 5 6 7 4, .sqr 10 11 8 9, .sqr 15 12 13 14]

end Sys2Proof
end

