-- ==== Sys2Proof/Config.lean ====
section
/-! DEFINITION. What the spec leaves without a value. The sizes of R5 that the spec chose itself (`DBYTES` 256, `RKBYTES` 256,
the port widths, the counter width) stand as numerals where they are used, with the values every rule uses (log entry 9). -/

namespace Sys2Proof

/-- A free byte: nothing constrains it. `CXCRYPT` takes its result bytes from here when its block counter passes
`0xFFFFFFFF`, the one case in which the spec gives an instruction an effect and no value (R129, R225; log entry 1). -/
opaque Config.freeByte : Nat → Byte

end Sys2Proof
end

