-- ==== Sys2Proof/Machine/State.lean ====
section
/-! DEFINITION. The state of CORE (spec/10_state.md), the reasons a step can stop, and the state after reset (R44). -/

namespace Sys2Proof.Machine

open Sys2Proof

/-- `RPHASE` (R30): three values and no fourth, since the encoding 3 never occurs (U6). -/
inductive Phase where
  /-- `UNINIT`, 0: no RC4 context exists. -/
  | uninit
  /-- `SCHEDULED`, 1: after key scheduling. -/
  | scheduled
  /-- `STREAMING`, 2: after at least one byte was generated. -/
  | streaming
deriving DecidableEq, Repr

/-- `ERRCODE` (R34, R211): codes 6 to 15 are never produced, so the type does not hold them (U6). -/
inductive ErrCode where
  /-- 0 `NONE`: no error since reset. -/
  | none
  /-- 1 `ILLEGAL_CMD`. -/
  | illegalCmd
  /-- 2 `QR_ALIAS`. -/
  | qrAlias
  /-- 3 `LEN_RANGE`. -/
  | lenRange
  /-- 4 `RC4_KEYLEN`. -/
  | rc4Keylen
  /-- 5 `RC4_PHASE`. -/
  | rc4Phase
deriving DecidableEq, Repr

/-- The width of a port access in bytes. Only `word` (4) is carried by the port; the narrower ones exist so that
their refusal can be said (R62, U5). -/
inductive Width where
  | byte
  | half
  | word
deriving DecidableEq, Repr

/-- One host action, the unit of the machine's step (R16, R20). -/
inductive HostAction where
  /-- `Reset`, the hardware reset input (R240). -/
  | reset
  /-- `MemWrite(addr, width, v)` (R8, R65). -/
  | memWrite (addr : Addr) (width : Width) (v : Word)
  /-- `MemRead(addr, width)` (R8, R64). -/
  | memRead (addr : Addr) (width : Width)
deriving DecidableEq, Repr

/-- What the port answers to one access (R62 to R65, R70). -/
inductive Response where
  /-- `OK` of a write. -/
  | ok
  /-- `OK` of a read, with the value read. -/
  | value (v : Word)
  /-- `BUSERR`: the access was refused and changed nothing. -/
  | busErr
deriving DecidableEq, Repr

/-- The state: every piece the spec gives CORE (R21 to R35), then the three fields that are the model's own bookkeeping. -/
structure State where
  /-- `ST[0..15]`, the input state bank (R21). -/
  st : Bank
  /-- `X[0..15]`, the working and output bank (R22). -/
  x : Bank
  /-- `KEY[0..31]`, the ChaCha20 key (R25). -/
  key : Vector Byte 32
  /-- `NONCE[0..11]`, the ChaCha20 nonce (R26). -/
  nonce : Vector Byte 12
  /-- `CTR`, the ChaCha20 block counter (R27). -/
  ctr : Word
  /-- `S[0..255]`, the RC4 permutation (R28). -/
  perm : Vector Byte 256
  /-- `RI`, the first RC4 cursor (R29). -/
  ri : Byte
  /-- `RJ`, the second RC4 cursor (R29). -/
  rj : Byte
  /-- `RPHASE` (R30). -/
  rphase : Phase
  /-- `RKEY[0..255]`, the RC4 key buffer (R31). -/
  rkey : Vector Byte 256
  /-- `KSB`, the keystream byte register (R32). -/
  ksb : Byte
  /-- `DATA[0..255]`, the data buffer (R33). -/
  data : Vector Byte 256
  /-- `ERR` (R34). -/
  err : Bool
  /-- `ERRCODE` (R34). -/
  errcode : ErrCode
  /-- `NBLK`, evaluations of a block function (R35). -/
  nblk : Word
  /-- `NBYTE`, PRGA steps (R35). -/
  nbyte : Word
  /-- MODEL BOOKKEEPING: the host actions not yet issued, the next one first. The program is the machine's input and
  its position the model's own bookkeeping (R20, R24; log entry 2). -/
  script : List HostAction
  /-- MODEL BOOKKEEPING: the port's responses so far, the latest first (R62 to R65, R248; log entry 3). -/
  responses : List Response
  /-- MODEL BOOKKEEPING: how many free bytes have been drawn (R129; log entry 1). -/
  freeCount : Nat
deriving DecidableEq, Repr

/-- No step of CORE stops the machine: errors set `ERR` and the host goes on (R212, R213), a refused access answers
`BUSERR` (R70), and every command terminates (R247). So there is no constructor; nothing raises it; safe. -/
inductive Fault where
deriving DecidableEq, Repr

/-- Why a step has no meaning. -/
inductive Refusal where
  /-- Raised by `exec` for a command without a meaning yet; safe. No arm raises it now. -/
  | notModelled (mnemonic : String)
deriving DecidableEq, Repr

/-- The state after `Reset` (R44, R241): all zero, `RPHASE = UNINIT`; no host action is waiting and none has been answered. -/
def State.reset : State where
  st := Vector.replicate 16 0
  x := Vector.replicate 16 0
  key := Vector.replicate 32 0
  nonce := Vector.replicate 12 0
  ctr := 0
  perm := Vector.replicate 256 0
  ri := 0
  rj := 0
  rphase := .uninit
  rkey := Vector.replicate 256 0
  ksb := 0
  data := Vector.replicate 256 0
  err := false
  errcode := .none
  nblk := 0
  nbyte := 0
  script := []
  responses := []
  freeCount := 0

end Sys2Proof.Machine
end

