-- ==== Sys2Proof/Machine/Ops.lean ====
section
/-! DEFINITION. The operations the commands and the port share: rotation, byte order, whole-bank operations, the combiner,
raising an error, resetting, and the common prelude of every command. -/

namespace Sys2Proof.Machine

open Sys2Proof

/-- The outcome of a step of this machine. -/
abbrev Result := Host.Outcome State Fault Refusal

/-! ### Words and bytes -/

/-- `rotl32(v, n)`: bit `i` of `v` becomes bit `(i + n) mod 32` (R12). -/
def rotl32 (v : Word) (n : Nat) : Word := v.rotateLeft n

/-- `le32(b0, b1, b2, b3)`: the first byte is the least significant (R14). -/
def le32 (b0 b1 b2 b3 : Byte) : Word := b3 ++ b2 ++ b1 ++ b0

/-- `byte(w, m) = w[8m+7:8m]` (R14). -/
def byteOf (w : Word) (m : Nat) : Byte := w.extractLsb' (8 * m) 8

/-- `le32(A[4w..4w+3])`: word `w` of a byte array, its lowest-index byte in bits 7:0 (R14, R66). -/
def packedWord {n : Nat} (bytes : Vector Byte n) (w : Nat) (h : 4 * w + 3 < n := by omega) : Word :=
  le32 bytes[4 * w] bytes[4 * w + 1] bytes[4 * w + 2] bytes[4 * w + 3]

/-- `A[4w + m] <- byte(v, m)` for `m` in 0..3 (R66). -/
def storeWord {n : Nat} (bytes : Vector Byte n) (w : Nat) (v : Word) (h : 4 * w + 3 < n := by omega) : Vector Byte n :=
  (((bytes.set (4 * w) (byteOf v 0)).set (4 * w + 1) (byteOf v 1)).set (4 * w + 2) (byteOf v 2)).set
    (4 * w + 3) (byteOf v 3)

/-- `ser(B)`, the 64 bytes of a bank: `ser(B)[4n + m] = byte(B[n], m)` (R14). -/
def ser (b : Bank) : List Byte := List.ofFn (n := 64) fun k => byteOf b[k.val / 4] (k.val % 4)

/-- `ceil_div(L, 64)` (R15). -/
def ceilDiv64 (len : Nat) : Nat := (len + 63) / 64

/-! ### Banks -/

/-- The four values a quarter-round returns for its four arguments (R123, R151). -/
abbrev Quarter := Word → Word → Word → Word → Word × Word × Word × Word

/-- The four word indices a quarter-round is applied to, in the order `a`, `b`, `c`, `d` (R93). -/
abbrev Group := Fin 16 × Fin 16 × Fin 16 × Fin 16

/-- `(B[a], B[b], B[c], B[d]) <- f(B[a], B[b], B[c], B[d])` (R124, R152): all four read, then all four written. -/
def quarterAt (f : Quarter) (v : Bank) (g : Group) : Bank :=
  match f v[g.1] v[g.2.1] v[g.2.2.1] v[g.2.2.2] with
  | (a, b, c, d) => (((v.set g.1 a).set g.2.1 b).set g.2.2.1 c).set g.2.2.2 d

/-- Quarter-rounds applied one after the other, in the order of the list (R125, R153). -/
def quarterRounds (f : Quarter) (groups : List Group) (v : Bank) : Bank := groups.foldl (quarterAt f) v

/-- Word-for-word addition of two banks mod 2^32 (R122). -/
def addBanks (a b : Bank) : Bank := Vector.ofFn fun n => a[n] + b[n]

/-- A block function: ten double rounds on a copy of the state, then the feed-forward addition of the state (R126, R154). -/
def blockFunction (doubleRound : Bank → Bank) (s : Bank) : Bank := addBanks (doubleRound^[10] s) s

/-! ### The combiner -/

/-- The combiner (R200): keystream byte `k` is XORed into `DATA[off + k]` for every `k` below the keystream's length; every
other byte of `DATA` is unchanged. -/
def combine (data : Vector Byte 256) (off : Nat) (keystream : List Byte) : Vector Byte 256 :=
  Vector.ofFn fun i =>
    if h : off ≤ i.val ∧ i.val - off < keystream.length then data[i] ^^^ keystream[i.val - off] else data[i]

/-! ### Errors and reset -/

/-- `raise Err(code)`: `ERR <- 1`, `ERRCODE <- code`, and nothing else (R9, R212). This is all CORE has of an exception
entry: nothing is saved, there is no handler, no mode and no program counter. -/
def State.raise (code : ErrCode) (s : State) : State := { s with err := true, errcode := code }

/-- The only way out of the error state (R215): every piece of CORE's state takes its reset value (R38, R44, R241). The
host's remaining actions, the responses already given and the count of free bytes are not CORE's state and stay. -/
def State.resetCore (s : State) : State :=
  { State.reset with script := s.script, responses := s.responses, freeCount := s.freeCount }

/-- The port's answer to an access is recorded (R62 to R65; log entry 3). -/
def State.respond (r : Response) (s : State) : State := { s with responses := r :: s.responses }

/-- The common prelude of every command (R100): ignored while `ERR = 1` (step 1, R213); then the operand check (step 4);
then the state check (step 5); only then the command's own effect (step 6). The order is the priority of R214. -/
def command (operandError stateError : Option ErrCode) (effect : State → State) (s : State) : Result :=
  if s.err then .next s
  else
    match operandError with
    | some code => .next (s.raise code)
    | none =>
      match stateError with
      | some code => .next (s.raise code)
      | none => .next (effect s)

end Sys2Proof.Machine
end

