-- ==== Sys2Proof/Machine/Flags.lean ====
section
/-! DEFINITION. The flags and the read views of the scalar registers: `STATUS` (R37), `RCUR` and `KSB` (R39), the generation
counters (R35, R220). CORE has no carry, zero, sign or overflow flag (R10, R34). -/

namespace Sys2Proof.Machine

open Sys2Proof

/-- The 2-bit encoding of `RPHASE` (R30). -/
def Phase.bits : Phase → BitVec 2
  | .uninit => 0
  | .scheduled => 1
  | .streaming => 2

/-- The 4-bit encoding of `ERRCODE` (R211). -/
def ErrCode.bits : ErrCode → BitVec 4
  | .none => 0
  | .illegalCmd => 1
  | .qrAlias => 2
  | .lenRange => 3
  | .rc4Keylen => 4
  | .rc4Phase => 5

/-- `STATUS` as read: `zext_32(RPHASE ++ ERRCODE ++ 0b000 ++ ERR)` (R37). -/
def statusWord (s : State) : Word :=
  (s.rphase.bits ++ s.errcode.bits ++ (0 : BitVec 3) ++ BitVec.ofBool s.err).setWidth 32

/-- `KSB` as read: bits 31:8 zero (R39). -/
def ksbWord (s : State) : Word := s.ksb.setWidth 32

/-- `RCUR` as read: `zext_32(RJ ++ RI)` (R39). -/
def rcurWord (s : State) : Word := (s.rj ++ s.ri).setWidth 32

/-- `NBLK <- add32(NBLK, n)` (R35, R220). -/
def State.countBlocks (n : Nat) (s : State) : State := { s with nblk := s.nblk + BitVec.ofNat 32 n }

/-- `NBYTE <- add32(NBYTE, n)` (R35, R220). -/
def State.countBytes (n : Nat) (s : State) : State := { s with nbyte := s.nbyte + BitVec.ofNat 32 n }

end Sys2Proof.Machine
end

