-- ==== Sys2Proof/Machine/Operands.lean ====
section
/-! DEFINITION. The checks of R100: step 4 from a command's operands alone, step 5 from the RC4 phase, and the counter range
that no check detects (R129). -/

namespace Sys2Proof.Machine

open Sys2Proof

/-- `CQR`, `SQR`: the four indices must be pairwise distinct, else `QR_ALIAS` (R100 step 4, R124, R152). -/
def indexError (a b c d : Fin 16) : Option ErrCode :=
  if a = b ∨ a = c ∨ a = d ∨ b = c ∨ b = d ∨ c = d then some .qrAlias else none

/-- `CXCRYPT`, `RXCRYPT`: a length above 256 is `LEN_RANGE` (R100 step 4, R128, R175). -/
def lengthError (len : Nat) : Option ErrCode := if 256 < len then some .lenRange else none

/-- `KXOR`: a length above 64, or a range that passes the end of `DATA`, is `LEN_RANGE` (R100 step 4, R201). -/
def rangeError (off len : Nat) : Option ErrCode := if 64 < len ∨ 256 < off + len then some .lenRange else none

/-- `RKSA`: a key length of 0 or above 256 is `RC4_KEYLEN` (R100 step 4, R172). -/
def keylenError (keylen : Nat) : Option ErrCode :=
  if keylen = 0 ∨ 256 < keylen then some .rc4Keylen else none

/-- `RKSA`: only a fresh context may be scheduled, else `RC4_PHASE` (R100 step 5, R171). -/
def needsFresh (s : State) : Option ErrCode := if s.rphase = .uninit then none else some .rc4Phase

/-- `RNEXT`, `RXCRYPT`: a context must exist, else `RC4_PHASE` (R100 step 5, R171). -/
def needsContext (s : State) : Option ErrCode := if s.rphase = .uninit then some .rc4Phase else none

/-- The counters of the blocks of a `CXCRYPT len` do not pass `0xFFFFFFFF`: `nblk = 0` or `CTR + nblk - 1 <= 0xFFFFFFFF`
(R129). CORE does not check it. -/
def counterInRange (ctr : Word) (len : Nat) : Bool := decide (ctr.toNat + ceilDiv64 len ≤ 2 ^ 32) || decide (len = 0)

end Sys2Proof.Machine
end

