-- ==== Sys2Proof/Machine/ChaCha20.lean ====
section
/-! DEFINITION. The ChaCha20 commands: `CINIT`, `CQR`, `CDR`, `CBLOCK`, `CXCRYPT` (spec/40_chacha20.md). -/

namespace Sys2Proof.Machine

open Sys2Proof

/-! ### The functions -/

/-- The ChaCha20 quarter-round on four words: twelve operations in this order, each on the values the earlier ones left (R123). -/
def cqr : Quarter := fun a b c d =>
  let a := a + b
  let d := rotl32 (d ^^^ a) 16
  let c := c + d
  let b := rotl32 (b ^^^ c) 12
  let a := a + b
  let d := rotl32 (d ^^^ a) 8
  let c := c + d
  let b := rotl32 (b ^^^ c) 7
  (a, b, c, d)

/-- The column groupings of ChaCha20 (R125, G4). -/
def chachaColumns : List Group := [(0, 4, 8, 12), (1, 5, 9, 13), (2, 6, 10, 14), (3, 7, 11, 15)]

/-- The diagonal groupings of ChaCha20 (R125, G4). -/
def chachaDiagonals : List Group := [(0, 5, 10, 15), (1, 6, 11, 12), (2, 7, 8, 13), (3, 4, 9, 14)]

/-- One ChaCha20 double round: the column round, then the diagonal round (R125). -/
def chachaDoubleRound (v : Bank) : Bank := quarterRounds cqr chachaDiagonals (quarterRounds cqr chachaColumns v)

/-- `chacha20_block` (R126). -/
def chachaBlock (s : Bank) : Bank := blockFunction chachaDoubleRound s

/-- `chacha20_init_state`: the four constants, eight key words, the counter, three nonce words (R127, G3). -/
def chachaInit (key : Vector Byte 32) (nonce : Vector Byte 12) (counter : Word) : Bank :=
  #v[0x61707865, 0x3320646e, 0x79622d32, 0x6b206574,
     packedWord key 0, packedWord key 1, packedWord key 2, packedWord key 3,
     packedWord key 4, packedWord key 5, packedWord key 6, packedWord key 7,
     counter, packedWord nonce 0, packedWord nonce 1, packedWord nonce 2]

/-- The 64 keystream bytes of block `b` of the stream that starts at counter `CTR` (R128). -/
def chachaKeystream (s : State) (b : Nat) : List Byte :=
  ser (chachaBlock (chachaInit s.key s.nonce (s.ctr + BitVec.ofNat 32 b)))

/-- `DATA` after the loop of `CXCRYPT len`: block `b` covers bytes `64b` to `64b + min(64, len - 64b) - 1` (R128). -/
def cxcryptData (len : Nat) (s : State) : Vector Byte 256 :=
  (List.range (ceilDiv64 len)).foldl
    (fun data b => combine data (64 * b) ((chachaKeystream s b).take (min 64 (len - 64 * b)))) s.data

/-- `DATA` with its first `len` bytes free, drawn from `Config.freeByte` starting at `start`; the other bytes are those of
`data`, since the command reaches no byte past `len` (R129, R45, R76; log entry 1). -/
def freeData (len start : Nat) (data : Vector Byte 256) : Vector Byte 256 :=
  Vector.ofFn fun k => if k.val < len then Config.freeByte (start + k.val) else data[k]

/-! ### The commands -/

/-- `ST <- chacha20_init_state(KEY, NONCE, CTR)` (R127). -/
def cinitEffect (s : State) : State := { s with st := chachaInit s.key s.nonce s.ctr }

/-- `(X[a], X[b], X[c], X[d]) <- cqr(X[a], X[b], X[c], X[d])` (R124). -/
def cqrEffect (g : Group) (s : State) : State := { s with x := quarterAt cqr s.x g }

/-- One double round on `X` (R125). -/
def cdrEffect (s : State) : State := { s with x := chachaDoubleRound s.x }

/-- `X <- chacha20_block(ST)`, one block counted (R126). -/
def cblockEffect (s : State) : State := { s with x := chachaBlock s.st }.countBlocks 1

/-- The first `len` bytes of `DATA` XORed with the keystream, `ceil_div(len, 64)` blocks counted (R128). Where the block counter
would pass `0xFFFFFFFF` nothing is raised and the blocks are counted all the same, but no rule gives the bytes written to `DATA`:
they are free (R129; log entry 1). -/
def cxcryptEffect (len : Nat) (s : State) : State :=
  if counterInRange s.ctr len then { s with data := cxcryptData len s }.countBlocks (ceilDiv64 len)
  else { s with data := freeData len s.freeCount s.data, freeCount := s.freeCount + len }.countBlocks (ceilDiv64 len)

/-- `CINIT` (R127). -/
def execCinit (s : State) : Result := command none none cinitEffect s

/-- `CQR a, b, c, d` (R124). -/
def execCqr (a b c d : Fin 16) (s : State) : Result := command (indexError a b c d) none (cqrEffect (a, b, c, d)) s

/-- `CDR` (R125). -/
def execCdr (s : State) : Result := command none none cdrEffect s

/-- `CBLOCK` (R126). -/
def execCblock (s : State) : Result := command none none cblockEffect s

/-- `CXCRYPT len` (R128, R129). -/
def execCxcrypt (len : Nat) (s : State) : Result := command (lengthError len) none (cxcryptEffect len) s

end Sys2Proof.Machine
end

