-- ==== Sys2Proof/Machine/Combiner.lean ====
section
/-! DEFINITION. The combiner command `KXOR` (spec/43_combiner.md). -/

namespace Sys2Proof.Machine

open Sys2Proof

/-- The first `len` bytes of `ser(X)` XORed into `DATA` from `off` on (R201). -/
def kxorEffect (off len : Nat) (s : State) : State := { s with data := combine s.data off ((ser s.x).take len) }

/-- `KXOR off, len` (R201). -/
def execKxor (off len : Nat) (s : State) : Result := command (rangeError off len) none (kxorEffect off len) s

end Sys2Proof.Machine
end

