-- ==== Sys2Proof/Machine/Rc4.lean ====
section
/-! DEFINITION. The RC4 commands: `RKSA`, `RNEXT`, `RXCRYPT`, `RDROP` (spec/42_rc4.md). -/

namespace Sys2Proof.Machine

open Sys2Proof

/-- What a PRGA step reads and writes: `S` and the two cursors (R170). -/
structure Rc4Context where
  perm : Vector Byte 256
  i : Byte
  j : Byte
deriving DecidableEq, Repr

/-- The RC4 context that a state holds (R170). -/
def State.context (s : State) : Rc4Context := ⟨s.perm, s.ri, s.rj⟩

/-- The state with its RC4 context replaced; the phase is not part of it. -/
def State.withContext (c : Rc4Context) (s : State) : State := { s with perm := c.perm, ri := c.i, rj := c.j }

/-- `A[b]` for a byte index `b`, always in range (R76). -/
def byteAt (bytes : Vector Byte 256) (b : Byte) : Byte := bytes[b.toNat]'b.isLt

/-- `swap(A[p], A[q])` (R7). -/
def swapBytes (bytes : Vector Byte 256) (p q : Byte) : Vector Byte 256 := bytes.swap p.toNat q.toNat p.isLt q.isLt

/-- `S[n] = n` for every `n` (R172). -/
def identityPerm : Vector Byte 256 := Vector.ofFn fun n => BitVec.ofNat 8 n.val

/-- One iteration of the key schedule: `j <- (j + S[n] + RKEY[n mod keylen]) mod 256`, then `swap(S[n], S[j])` (R172). -/
def ksaStep (rkey : Vector Byte 256) (keylen : Nat) (sj : Vector Byte 256 × Byte) (n : Fin 256) : Vector Byte 256 × Byte :=
  let j := sj.2 + sj.1[n] + rkey[n.val % keylen]'(Nat.lt_of_le_of_lt (Nat.mod_le _ _) n.isLt)
  (swapBytes sj.1 (BitVec.ofFin n) j, j)

/-- The permutation that key scheduling builds from `RKEY[0..keylen-1]` (R172); `j` is a temporary. -/
def keySchedule (rkey : Vector Byte 256) (keylen : Nat) : Vector Byte 256 :=
  ((List.finRange 256).foldl (ksaStep rkey keylen) (identityPerm, 0)).1

/-- One step of the PRGA: the keystream byte and the context after it (R173). -/
def prgaStep (c : Rc4Context) : Byte × Rc4Context :=
  let i := c.i + 1
  let j := c.j + byteAt c.perm i
  let perm := swapBytes c.perm i j
  (byteAt perm (byteAt perm i + byteAt perm j), ⟨perm, i, j⟩)

/-- The next `n` keystream bytes of a context, in order, and the context after them (R175). -/
def prgaBytes : Nat → Rc4Context → List Byte × Rc4Context
  | 0, c => ([], c)
  | n + 1, c =>
    let (t, c) := prgaStep c
    let (ts, c) := prgaBytes n c
    (t :: ts, c)

/-- The key schedule, cursors at 0, phase `SCHEDULED` (R172). -/
def rksaEffect (keylen : Nat) (s : State) : State :=
  { s with perm := keySchedule s.rkey keylen, ri := 0, rj := 0, rphase := .scheduled }

/-- `KSB <- prga_step()`, phase `STREAMING`, one byte counted (R174). -/
def rnextEffect (s : State) : State :=
  { s.withContext (prgaStep s.context).2 with ksb := (prgaStep s.context).1, rphase := .streaming }.countBytes 1

/-- The first `len` bytes of `DATA` XORed with the next `len` keystream bytes, `len` bytes counted; the phase becomes
`STREAMING` when `len >= 1` (R175). The keystream bytes are temporaries: `KSB` is not written. -/
def rxcryptEffect (len : Nat) (s : State) : State :=
  { s.withContext (prgaBytes len s.context).2 with
    data := combine s.data 0 (prgaBytes len s.context).1
    rphase := if 1 ≤ len then .streaming else s.rphase }.countBytes len

/-- `S`, the cursors and `KSB` zeroed, phase `UNINIT` (R176). -/
def rdropEffect (s : State) : State :=
  { s with perm := Vector.replicate 256 0, ri := 0, rj := 0, ksb := 0, rphase := .uninit }

/-- `RKSA keylen` (R172). -/
def execRksa (keylen : Nat) (s : State) : Result := command (keylenError keylen) (needsFresh s) (rksaEffect keylen) s

/-- `RNEXT` (R174). -/
def execRnext (s : State) : Result := command none (needsContext s) rnextEffect s

/-- `RXCRYPT len` (R175). -/
def execRxcrypt (len : Nat) (s : State) : Result := command (lengthError len) (needsContext s) (rxcryptEffect len) s

/-- `RDROP`, allowed in every phase (R176). -/
def execRdrop (s : State) : Result := command none none rdropEffect s

end Sys2Proof.Machine
end

