-- ==== Sys2Proof/Machine/Salsa20.lean ====
section
/-! DEFINITION. The Salsa20 commands: `SQR`, `SDR`, `SBLOCK` (spec/41_salsa20.md). There is no initializer and no xcrypt (R155). -/

namespace Sys2Proof.Machine

open Sys2Proof

/-- The Salsa20 quarter-round on four words: four steps in this order, each on the values the earlier ones left (R151). -/
def sqr : Quarter := fun a b c d =>
  let b := b ^^^ rotl32 (a + d) 7
  let c := c ^^^ rotl32 (b + a) 9
  let d := d ^^^ rotl32 (c + b) 13
  let a := a ^^^ rotl32 (d + c) 18
  (a, b, c, d)

/-- The column-round groupings of Salsa20 (R153). -/
def salsaColumns : List Group := [(0, 4, 8, 12), (5, 9, 13, 1), (10, 14, 2, 6), (15, 3, 7, 11)]

/-- The row-round groupings of Salsa20 (R153). -/
def salsaRows : List Group := [(0, 1, 2, 3), (5, 6, 7, 4), (10, 11, 8, 9), (15, 12, 13, 14)]

/-- One Salsa20 double round: the column round, then the row round (R153, G5). -/
def salsaDoubleRound (v : Bank) : Bank := quarterRounds sqr salsaRows (quarterRounds sqr salsaColumns v)

/-- `salsa20_block` (R154). -/
def salsaBlock (s : Bank) : Bank := blockFunction salsaDoubleRound s

/-- `(X[a], X[b], X[c], X[d]) <- sqr(X[a], X[b], X[c], X[d])` (R152). -/
def sqrEffect (g : Group) (s : State) : State := { s with x := quarterAt sqr s.x g }

/-- One double round on `X` (R153). -/
def sdrEffect (s : State) : State := { s with x := salsaDoubleRound s.x }

/-- `X <- salsa20_block(ST)`, one block counted (R154). -/
def sblockEffect (s : State) : State := { s with x := salsaBlock s.st }.countBlocks 1

/-- `SQR a, b, c, d` (R152). -/
def execSqr (a b c d : Fin 16) (s : State) : Result := command (indexError a b c d) none (sqrEffect (a, b, c, d)) s

/-- `SDR` (R153). -/
def execSdr (s : State) : Result := command none none sdrEffect s

/-- `SBLOCK` (R154). -/
def execSblock (s : State) : Result := command none none sblockEffect s

end Sys2Proof.Machine
end

