-- ==== Sys2Proof/Machine/WordEngine.lean ====
section
/-! DEFINITION. The steps both word engines share: `XCOPY`, `XADD` (spec/40_chacha20.md section 2). -/

namespace Sys2Proof.Machine

open Sys2Proof

/-- `X <- ST` (R121). -/
def xcopyEffect (s : State) : State := { s with x := s.st }

/-- `X[n] <- add32(X[n], ST[n])` for every `n` (R122). -/
def xaddEffect (s : State) : State := { s with x := addBanks s.x s.st }

/-- `XCOPY` (R121). -/
def execXcopy (s : State) : Result := command none none xcopyEffect s

/-- `XADD` (R122). -/
def execXadd (s : State) : Result := command none none xaddEffect s

end Sys2Proof.Machine
end

