-- ==== Sys2Proof/Machine/Dispatch.lean ====
section
/-! DEFINITION. One arm per command: steps 1 and 4 to 6 of R100 for a decoded command. -/

namespace Sys2Proof.Machine

open Sys2Proof

/-- What executing a command does in a state (R100). -/
def exec (i : Instr) (s : State) : Host.Outcome State Fault Refusal :=
  match i with
  | .xcopy => Sys2Proof.Machine.execXcopy s
  | .xadd => Sys2Proof.Machine.execXadd s
  | .cinit => Sys2Proof.Machine.execCinit s
  | .cqr a b c d => Sys2Proof.Machine.execCqr a b c d s
  | .cdr => Sys2Proof.Machine.execCdr s
  | .cblock => Sys2Proof.Machine.execCblock s
  | .cxcrypt len => Sys2Proof.Machine.execCxcrypt len s
  | .sqr a b c d => Sys2Proof.Machine.execSqr a b c d s
  | .sdr => Sys2Proof.Machine.execSdr s
  | .sblock => Sys2Proof.Machine.execSblock s
  | .rksa keylen => Sys2Proof.Machine.execRksa keylen s
  | .rnext => Sys2Proof.Machine.execRnext s
  | .rxcrypt len => Sys2Proof.Machine.execRxcrypt len s
  | .rdrop => Sys2Proof.Machine.execRdrop s
  | .kxor off len => Sys2Proof.Machine.execKxor off len s

end Sys2Proof.Machine
end

