-- ==== Sys2Proof/Machine/Port.lean ====
section
/-! DEFINITION. The host port (spec/20_memory.md): the address map, reads, writes, the execution of a written command word,
and the effect of one host action. -/

namespace Sys2Proof.Machine

open Sys2Proof

/-! ### The address map -/

/-- A mapped word of the register space, with its index where the register is an array (R61). -/
inductive Reg where
  | cmd
  | status
  | ctrl
  | ctr
  | nblk
  | nbyte
  | ksb
  | rcur
  | key (w : Fin 8)
  | nonce (w : Fin 3)
  | st (n : Fin 16)
  | x (n : Fin 16)
  | rkey (w : Fin 64)
  | data (w : Fin 64)
  | perm (w : Fin 64)
deriving DecidableEq, Repr

/-- The address map of R61: the mapped word at an address, `none` where the address is misaligned (R62) or unmapped (R63). -/
def regAt (a : Addr) : Option Reg :=
  let n := a.toNat
  if n % 4 ≠ 0 then none
  else if n = 0x000 then some .cmd
  else if n = 0x004 then some .status
  else if n = 0x008 then some .ctrl
  else if n = 0x00C then some .ctr
  else if n = 0x010 then some .nblk
  else if n = 0x014 then some .nbyte
  else if n = 0x018 then some .ksb
  else if n = 0x01C then some .rcur
  else if h : 0x020 ≤ n ∧ n ≤ 0x03C then some (.key ⟨(n - 0x020) / 4, by omega⟩)
  else if h : 0x040 ≤ n ∧ n ≤ 0x048 then some (.nonce ⟨(n - 0x040) / 4, by omega⟩)
  else if h : 0x080 ≤ n ∧ n ≤ 0x0BC then some (.st ⟨(n - 0x080) / 4, by omega⟩)
  else if h : 0x0C0 ≤ n ∧ n ≤ 0x0FC then some (.x ⟨(n - 0x0C0) / 4, by omega⟩)
  else if h : 0x100 ≤ n ∧ n ≤ 0x1FC then some (.rkey ⟨(n - 0x100) / 4, by omega⟩)
  else if h : 0x200 ≤ n ∧ n ≤ 0x2FC then some (.data ⟨(n - 0x200) / 4, by omega⟩)
  else if h : 0x300 ≤ n ∧ n ≤ 0x3FC then some (.perm ⟨(n - 0x300) / 4, by omega⟩)
  else none

/-- Where the map of R61 puts a register. -/
def Reg.address : Reg → Nat
  | .cmd => 0x000
  | .status => 0x004
  | .ctrl => 0x008
  | .ctr => 0x00C
  | .nblk => 0x010
  | .nbyte => 0x014
  | .ksb => 0x018
  | .rcur => 0x01C
  | .key w => 0x020 + 4 * w.val
  | .nonce w => 0x040 + 4 * w.val
  | .st n => 0x080 + 4 * n.val
  | .x n => 0x0C0 + 4 * n.val
  | .rkey w => 0x100 + 4 * w.val
  | .data w => 0x200 + 4 * w.val
  | .perm w => 0x300 + 4 * w.val

/-- The register an access reaches: only aligned 32-bit accesses to mapped addresses reach one (R62, R63). -/
def target (a : Addr) (width : Width) : Option Reg :=
  match width with
  | .word => regAt a
  | .half => none
  | .byte => none

/-! ### Reads -/

/-- The value a register reads as; the write-only `CMD` and `CTRL` read as 0 (R64, R66, R67, R37, R39). -/
def readReg (s : State) : Reg → Word
  | .cmd => 0
  | .status => statusWord s
  | .ctrl => 0
  | .ctr => s.ctr
  | .nblk => s.nblk
  | .nbyte => s.nbyte
  | .ksb => ksbWord s
  | .rcur => rcurWord s
  | .key w => packedWord s.key w.val
  | .nonce w => packedWord s.nonce w.val
  | .st n => s.st[n]
  | .x n => s.x[n]
  | .rkey w => packedWord s.rkey w.val
  | .data w => packedWord s.data w.val
  | .perm w => packedWord s.perm w.val

/-- The port's response to `MemRead(a, width)`: a read changes no state (R62, R63, R64). -/
def readResponse (a : Addr) (width : Width) (s : State) : Response :=
  match target a width with
  | some r => .value (readReg s r)
  | none => .busErr

/-! ### Writes -/

/-- Executing the command word `w` (R100): a word that encodes no command raises `ILLEGAL_CMD` (step 2, R98), and it too is
ignored while `ERR = 1` (step 1). -/
def executeWord (w : Word) (s : State) : Result :=
  match decode w with
  | .ok i => exec i s
  | .error _ => command (some .illegalCmd) none id s

/-- The state after a write of `v` to `CTRL`: a soft reset when bit 0 is 1, nothing otherwise; bits 31:1 are ignored (R38). -/
def writeCtrl (v : Word) (s : State) : State := if v.getLsbD 0 then s.resetCore else s

/-- The answer of a write recorded in the state it leaves. -/
def answered (r : Response) (o : Result) : Result :=
  match o with
  | .next s => .next (s.respond r)
  | .fault f => .fault f
  | .refused f => .refused f

/-- `MemWrite` to a mapped, aligned register: the effect and the response (R65); a read-only register refuses (R68). -/
def writeReg (v : Word) (s : State) : Reg → Result
  | .cmd => answered .ok (executeWord v s)
  | .ctrl => .next ((writeCtrl v s).respond .ok)
  | .ctr => .next ({ s with ctr := v }.respond .ok)
  | .key w => .next ({ s with key := storeWord s.key w.val v }.respond .ok)
  | .nonce w => .next ({ s with nonce := storeWord s.nonce w.val v }.respond .ok)
  | .st n => .next ({ s with st := s.st.set n v }.respond .ok)
  | .x n => .next ({ s with x := s.x.set n v }.respond .ok)
  | .rkey w => .next ({ s with rkey := storeWord s.rkey w.val v }.respond .ok)
  | .data w => .next ({ s with data := storeWord s.data w.val v }.respond .ok)
  | .status => .next (s.respond .busErr)
  | .nblk => .next (s.respond .busErr)
  | .nbyte => .next (s.respond .busErr)
  | .ksb => .next (s.respond .busErr)
  | .rcur => .next (s.respond .busErr)
  | .perm _ => .next (s.respond .busErr)

/-- `MemWrite(a, width, v)` (R62, R63, R65, R68). -/
def memWrite (a : Addr) (width : Width) (v : Word) (s : State) : Result :=
  match target a width with
  | some r => writeReg v s r
  | none => .next (s.respond .busErr)

/-! ### Host actions -/

/-- The effect of one host action (R16, R20): CORE changes state only inside one. `Reset` is no access and has no response. -/
def perform (a : HostAction) (s : State) : Result :=
  match a with
  | .reset => .next s.resetCore
  | .memWrite addr width v => memWrite addr width v s
  | .memRead addr width => .next (s.respond (readResponse addr width s))

/-- The next action of the script is performed on the state without it; with no action left nothing happens, since CORE never
acts on its own (R20, R24, R248; log entry 2). -/
def runNext (s : State) : Result :=
  match s.script with
  | [] => .next s
  | a :: rest => perform a { s with script := rest }

/-- The script with the command word `w` put before the actions still waiting, as `MemWrite(0x000, 4, w)` (R90). -/
def State.pushCommand (w : Word) (s : State) : State := { s with script := .memWrite 0x000 .word w :: s.script }

/-! ### Host scripts (R103) -/

/-- `WR addr, value`. -/
def wr (a : Addr) (v : Word) : HostAction := .memWrite a .word v

/-- `RD addr`. -/
def rd (a : Addr) : HostAction := .memRead a .word

/-- `CMD <command>`. -/
def cmd (i : Instr) : HostAction := wr 0x000 (encode i)

/-- `SRST`. -/
def srst : HostAction := wr 0x008 1

/-- The `WR` lines of `WRB` from address `a` on: whole words, packed by R66, the last one padded with `00`. -/
def wrb (a : Addr) : List Byte → List HostAction
  | [] => []
  | [b0] => [wr a (le32 b0 0 0 0)]
  | [b0, b1] => [wr a (le32 b0 b1 0 0)]
  | [b0, b1, b2] => [wr a (le32 b0 b1 b2 0)]
  | b0 :: b1 :: b2 :: b3 :: bs => wr a (le32 b0 b1 b2 b3) :: wrb (a + 4) bs

end Sys2Proof.Machine
end

