-- ==== Sys2Proof/Machine/Step.lean ====
section
/-! DEFINITION. One step of the machine: one host action (R20). -/

namespace Sys2Proof.Machine

open Sys2Proof

/-- The machine's step: the next host action, complete, as one atomic transition (R20, R72). -/
def step (s : State) : Host.Outcome State Fault Refusal := runNext s

/-- `s` with the command word whose bits are `w` as the next host action, before those already waiting: CORE fetches
nothing, its commands arrive as writes to `CMD` (R24, R36; log entry 2). -/
def State.withFetchWord (s : State) (nbits w : Nat) : State := s.pushCommand (tableWord nbits w)

end Sys2Proof.Machine
end

