-- ==== Sys2Proof/Safety.lean ====
section
/-! DEFINITION. What counts as a legal state and as a good run, and running a list of commands, in the terms claims use. -/

namespace Sys2Proof.Machine

open Sys2Proof

/-- `S` is a permutation of 0..255: every value occurs in exactly one position (R40). -/
def IsPermutation (bytes : Vector Byte 256) : Prop := ∀ v : Byte, ∃! i : Fin 256, bytes[i] = v

/-- The invariant of the state: the error flag and code agree (R34); a context's `S` is a permutation (R40); without a
context `S`, the cursors and `KSB` are zero (R40, R44, R176); a context that has generated nothing has its cursors and
`KSB` at zero (R29, R32, R171). -/
structure State.Inv (s : State) : Prop where
  errAgrees : s.err = false ↔ s.errcode = .none
  permutation : s.rphase ≠ .uninit → IsPermutation s.perm
  fresh : s.rphase = .uninit → s.perm = Vector.replicate 256 0
  notStreaming : s.rphase ≠ .streaming → s.ri = 0 ∧ s.rj = 0 ∧ s.ksb = 0

/-- A good run has ended without an error and without a refused access (R248). DESIGN CHOICE (log entry 11): the run's record of
responses is all of `responses`, so a refused access of earlier host actions counts too; to judge one program alone (R241 lets
it start from a state already reached), start it with `responses` empty. -/
def State.goodEnd (s : State) : Bool :=
  s.script.isEmpty && !s.err && s.responses.all fun r => decide (r ≠ .busErr)

/-- Commands executed one after the other, stopping at the first that does not answer a next state (R72). -/
def runCommands : List Instr → State → Result
  | [], s => .next s
  | i :: is, s =>
    match exec i s with
    | .next t => runCommands is t
    | .fault f => .fault f
    | .refused f => .refused f

end Sys2Proof.Machine
end

