-- ==== Sys2Proof/Certificates/Slice0/Obligations.lean ====
section
/-! DEFINITION. The statements about the model, each from the rules of spec/ that its docstring names. The functions under
`Sys2Proof.Spec` are the spec's pseudocode written a second time, on plain numbers and apart from the model, so that a statement
compares the model with the rule and not with itself. -/

namespace Sys2Proof.Spec

open Sys2Proof Sys2Proof.Machine

/-! ### The rules on plain numbers -/

/-- `add32` (R10). -/
def add (a b : Nat) : Nat := (a + b) % 2 ^ 32

/-- `rotl32` by the formula of R12. -/
def rotl (v n : Nat) : Nat := (v * 2 ^ n) % 2 ^ 32 + v / 2 ^ (32 - n)

/-- The twelve operations of R123. -/
def cqr (a b c d : Nat) : Nat × Nat × Nat × Nat :=
  let a := add a b
  let d := rotl (d ^^^ a) 16
  let c := add c d
  let b := rotl (b ^^^ c) 12
  let a := add a b
  let d := rotl (d ^^^ a) 8
  let c := add c d
  let b := rotl (b ^^^ c) 7
  (a, b, c, d)

/-- The four steps of R151. -/
def sqr (a b c d : Nat) : Nat × Nat × Nat × Nat :=
  let b := b ^^^ rotl (add a d) 7
  let c := c ^^^ rotl (add b a) 9
  let d := d ^^^ rotl (add c b) 13
  let a := a ^^^ rotl (add d c) 18
  (a, b, c, d)

/-- The words of a bank as numbers, by index. -/
def words (v : Bank) (n : Nat) : Nat := if h : n < 16 then v[n].toNat else 0

/-- The bytes of a byte array as numbers, by index. -/
def bytes {m : Nat} (v : Vector Byte m) (k : Nat) : Nat := if h : k < m then v[k].toNat else 0

/-- A quarter-round on the words `a`, `b`, `c`, `d` of a bank (R124, R152). -/
def quarter (f : Nat → Nat → Nat → Nat → Nat × Nat × Nat × Nat) (a b c d : Nat) (w : Nat → Nat) (n : Nat) : Nat :=
  let r := f (w a) (w b) (w c) (w d)
  if n = a then r.1 else if n = b then r.2.1 else if n = c then r.2.2.1 else if n = d then r.2.2.2 else w n

/-- The eight quarter-rounds of R125, the first one innermost. -/
def chachaDoubleRound (w : Nat → Nat) : Nat → Nat :=
  quarter cqr 3 4 9 14 (quarter cqr 2 7 8 13 (quarter cqr 1 6 11 12 (quarter cqr 0 5 10 15
    (quarter cqr 3 7 11 15 (quarter cqr 2 6 10 14 (quarter cqr 1 5 9 13 (quarter cqr 0 4 8 12 w)))))))

/-- The eight quarter-rounds of R153, the first one innermost. -/
def salsaDoubleRound (w : Nat → Nat) : Nat → Nat :=
  quarter sqr 15 12 13 14 (quarter sqr 10 11 8 9 (quarter sqr 5 6 7 4 (quarter sqr 0 1 2 3
    (quarter sqr 15 3 7 11 (quarter sqr 10 14 2 6 (quarter sqr 5 9 13 1 (quarter sqr 0 4 8 12 w)))))))

/-- Ten double rounds, then the feed-forward addition (R126, R154). -/
def block (doubleRound : (Nat → Nat) → Nat → Nat) (w : Nat → Nat) (n : Nat) : Nat := add (doubleRound^[10] w n) (w n)

/-- `le32` of bytes `4w` to `4w + 3` (R14). -/
def le (b : Nat → Nat) (w : Nat) : Nat :=
  b (4 * w) + 256 * b (4 * w + 1) + 65536 * b (4 * w + 2) + 16777216 * b (4 * w + 3)

/-- `chacha20_init_state` (R127). -/
def chachaInit (key nonce : Nat → Nat) (counter n : Nat) : Nat :=
  if n = 0 then 0x61707865
  else if n = 1 then 0x3320646e
  else if n = 2 then 0x79622d32
  else if n = 3 then 0x6b206574
  else if n < 12 then le key (n - 4)
  else if n = 12 then counter
  else le nonce (n - 13)

/-- `ser(B)[k]` (R14). -/
def serByte (w : Nat → Nat) (k : Nat) : Nat := w (k / 4) / 2 ^ (8 * (k % 4)) % 256

/-- `swap(A[p], A[q])` (R7). -/
def swap (w : Nat → Nat) (p q k : Nat) : Nat := if k = p then w q else if k = q then w p else w k

/-- One iteration of the key schedule (R172). -/
def ksaStep (key : Nat → Nat) (keylen : Nat) (sj : (Nat → Nat) × Nat) (n : Nat) : (Nat → Nat) × Nat :=
  let j := (sj.2 + sj.1 n + key (n % keylen)) % 256
  (swap sj.1 n j, j)

/-- The permutation the key schedule leaves (R172). -/
def ksa (key : Nat → Nat) (keylen : Nat) : Nat → Nat :=
  ((List.range 256).foldl (ksaStep key keylen) (fun n => n, 0)).1

/-- The block counters of a `CXCRYPT len` stay below `2^32` (R129). -/
def counterFits (ctr : Word) (len : Nat) : Prop := len = 0 ∨ ctr.toNat + (len + 63) / 64 - 1 ≤ 0xFFFFFFFF

/-! ### Tables of the spec -/

/-- The error of a command whose word is legal, by R211 in the order of R214. -/
def errorOf (i : Instr) (phase : Phase) : Option ErrCode :=
  match i with
  | .cqr a b c d => if [a, b, c, d].Nodup then none else some .qrAlias
  | .sqr a b c d => if [a, b, c, d].Nodup then none else some .qrAlias
  | .cxcrypt len => if len > 256 then some .lenRange else none
  | .rxcrypt len => if len > 256 then some .lenRange else if phase = .uninit then some .rc4Phase else none
  | .kxor off len => if len > 64 ∨ off + len > 256 then some .lenRange else none
  | .rksa keylen =>
    if keylen = 0 ∨ keylen > 256 then some .rc4Keylen else if phase ≠ .uninit then some .rc4Phase else none
  | .rnext => if phase = .uninit then some .rc4Phase else none
  | .xcopy => none
  | .xadd => none
  | .cinit => none
  | .cdr => none
  | .cblock => none
  | .sdr => none
  | .sblock => none
  | .rdrop => none

/-- The `NBLK` column of R220. -/
def blocksOf : Instr → Nat
  | .cblock => 1
  | .sblock => 1
  | .cxcrypt len => (len + 63) / 64
  | _ => 0

/-- The `NBYTE` column of R220. -/
def bytesOf : Instr → Nat
  | .rnext => 1
  | .rxcrypt len => len
  | _ => 0

/-- `X` of `t` in the words `a`, `b`, `c`, `d`, of `s` in the other twelve: the "4 words" of R45. -/
def xWords (a b c d : Fin 16) (s t : State) : Bank := Vector.ofFn fun n => if n ∈ [a, b, c, d] then t.x[n] else s.x[n]

/-- `DATA` of `t` in the `len` bytes from `off` on, of `s` elsewhere: the "`len` bytes" of R45. -/
def dataBytes (off len : Nat) (s t : State) : Vector Byte 256 :=
  Vector.ofFn fun k => if off ≤ k.val ∧ k.val < off + len then t.data[k] else s.data[k]

/-- `s` with the state that a command's row of R45 marks written, and the error flags, taken from `t`.
`freeCount` is the model's own (log entry 1). -/
def touched (i : Instr) (s t : State) : State :=
  let u := { s with err := t.err, errcode := t.errcode }
  match i with
  | .xcopy => { u with x := t.x }
  | .xadd => { u with x := t.x }
  | .cinit => { u with st := t.st }
  | .cqr a b c d => { u with x := xWords a b c d s t }
  | .cdr => { u with x := t.x }
  | .cblock => { u with x := t.x, nblk := t.nblk }
  | .cxcrypt len => { u with data := dataBytes 0 len s t, nblk := t.nblk, freeCount := t.freeCount }
  | .sqr a b c d => { u with x := xWords a b c d s t }
  | .sdr => { u with x := t.x }
  | .sblock => { u with x := t.x, nblk := t.nblk }
  | .rksa _ => { u with perm := t.perm, ri := t.ri, rj := t.rj, rphase := t.rphase }
  | .rnext => { u with perm := t.perm, ri := t.ri, rj := t.rj, rphase := t.rphase, ksb := t.ksb, nbyte := t.nbyte }
  | .rxcrypt len =>
    { u with data := dataBytes 0 len s t, perm := t.perm, ri := t.ri, rj := t.rj, rphase := t.rphase, nbyte := t.nbyte }
  | .rdrop => { u with perm := t.perm, ri := t.ri, rj := t.rj, rphase := t.rphase, ksb := t.ksb }
  | .kxor off len => { u with data := dataBytes off len s t }

/-- The reset value of every piece of state (R44). -/
def ResetValues (s : State) : Prop :=
  (∀ n : Fin 16, s.st[n] = 0 ∧ s.x[n] = 0) ∧ (∀ k : Fin 32, s.key[k] = 0) ∧ (∀ k : Fin 12, s.nonce[k] = 0) ∧
  (∀ k : Fin 256, s.perm[k] = 0 ∧ s.rkey[k] = 0 ∧ s.data[k] = 0) ∧ s.ctr = 0 ∧ s.ri = 0 ∧ s.rj = 0 ∧
  s.rphase = .uninit ∧ s.ksb = 0 ∧ s.err = false ∧ s.errcode = .none ∧ s.nblk = 0 ∧ s.nbyte = 0

/-- The codes of R211. -/
def codeNumber : ErrCode → Nat
  | .none => 0
  | .illegalCmd => 1
  | .qrAlias => 2
  | .lenRange => 3
  | .rc4Keylen => 4
  | .rc4Phase => 5

/-- The phases of R30. -/
def phaseNumber : Phase → Nat
  | .uninit => 0
  | .scheduled => 1
  | .streaming => 2

/-- The value a mapped register reads as, by the tables of R61, R37 and R39 and by R66 and R67. -/
def registerValue (s : State) : Reg → Nat
  | .cmd => 0
  | .status => s.err.toNat + 16 * codeNumber s.errcode + 256 * phaseNumber s.rphase
  | .ctrl => 0
  | .ctr => s.ctr.toNat
  | .nblk => s.nblk.toNat
  | .nbyte => s.nbyte.toNat
  | .ksb => s.ksb.toNat
  | .rcur => s.ri.toNat + 256 * s.rj.toNat
  | .key w => le (bytes s.key) w
  | .nonce w => le (bytes s.nonce) w
  | .st n => s.st[n].toNat
  | .x n => s.x[n].toNat
  | .rkey w => le (bytes s.rkey) w
  | .data w => le (bytes s.data) w
  | .perm w => le (bytes s.perm) w

/-- The registers of R61 with write access whose write does nothing but store: all but `CMD` and `CTRL` (R65). -/
def storing : Reg → Bool
  | .ctr => true
  | .key _ => true
  | .nonce _ => true
  | .st _ => true
  | .x _ => true
  | .rkey _ => true
  | .data _ => true
  | _ => false

/-- The word-engine commands, which reach `ST`, `X`, the key registers and `NBLK` only (R45). -/
def wordEngine : Instr → Bool
  | .xcopy => true
  | .xadd => true
  | .cinit => true
  | .cqr _ _ _ _ => true
  | .cdr => true
  | .cblock => true
  | .sqr _ _ _ _ => true
  | .sdr => true
  | .sblock => true
  | _ => false

/-- The RC4 commands (R170). -/
def rc4Command : Instr → Bool
  | .rksa _ => true
  | .rnext => true
  | .rxcrypt _ => true
  | .rdrop => true
  | _ => false

/-- The host script of R130 (d): per block, the counter written, then `CINIT`, `CBLOCK`, `KXOR 64b, min(64, len - 64b)`. -/
def blockScript (ctr : Word) (len : Nat) : List HostAction :=
  (List.range ((len + 63) / 64)).flatMap fun b =>
    [wr 0x00C (ctr + BitVec.ofNat 32 b), cmd .cinit, cmd .cblock, cmd (.kxor (64 * b) (min 64 (len - 64 * b)))]

end Sys2Proof.Spec

open Sys2Proof Sys2Proof.Machine

/-! ### Encoding -/

/-- R96, R97, R101: decoding the encoded word of any well-formed command gives that command back, every operand at every value
its field admits. -/
def Obligations.DecodeOfEncodedCommand : Prop := ∀ i : Instr, i.wf = true → decode (encode i) = .ok i

/-- R96, R97, R101: a word that decodes is the encoding of what it decodes to, which is well formed: no bit of a command word is
dropped, and two words never decode to one command. -/
def Obligations.EncodeOfDecodedWord : Prop :=
  ∀ (w : Word) (i : Instr), decode w = .ok i → i.wf = true ∧ encode i = w

/-- R97: "the word `w` encodes the command exactly when `(w and mask) = match`", for every row of the transcribed table and
every 32-bit word, against the decoder, which does not read the table. -/
def Obligations.WordMatchesRowIffItDecodesToIt : Prop :=
  ∀ r ∈ opcodeTable, ∀ w : Word, w &&& r.mask = r.matchBits ↔ ∃ i, decode w = .ok i ∧ i.mnemonic = r.mnemonic

/-- R98: a word that matches no row of R97, written to `CMD` while `ERR = 0`, raises `ILLEGAL_CMD` and changes nothing else. -/
def Obligations.UnmatchedWordRaisesIllegalCmd : Prop :=
  ∀ (s : State) (w : Word) (rest : List HostAction), s.err = false → (∀ r ∈ opcodeTable, w &&& r.mask ≠ r.matchBits) →
    step { s with script := .memWrite 0x000 .word w :: rest } =
      .next { s with script := rest, responses := .ok :: s.responses, err := true, errcode := .illegalCmd }

/-- V40: words written out in the spec, one of every command, decode to the commands they stand for. -/
def Obligations.SpecWordsDecode : Prop :=
  decode 0x01000000 = .ok .xcopy ∧ decode 0x02000000 = .ok .xadd ∧ decode 0x10000000 = .ok .cinit ∧
  decode 0x1200278d = .ok (.cqr 2 7 8 13) ∧ decode 0x13000000 = .ok .cdr ∧ decode 0x15000000 = .ok .cblock ∧
  decode 0x16000072 = .ok (.cxcrypt 114) ∧ decode 0x220059d1 = .ok (.sqr 5 9 13 1) ∧ decode 0x23000000 = .ok .sdr ∧
  decode 0x25000000 = .ok .sblock ∧ decode 0x30000100 = .ok (.rksa 256) ∧ decode 0x31000000 = .ok .rnext ∧
  decode 0x32000009 = .ok (.rxcrypt 9) ∧ decode 0x33000000 = .ok .rdrop ∧ decode 0x40c00040 = .ok (.kxor 192 64)

/-! ### The step -/

/-- R36, R65, R90, R100: where the next host action writes a word to `CMD` that decodes to `i`, the step is `exec i` on the state
without that action, and then the response `OK` is recorded (the record is the model's, log entry 3); and a word that is placed as
the next command runs as the instruction the decoder reads from it. -/
def Obligations.StepRunsTheDecodedCommand : Prop :=
  (∀ (s : State) (w : Word) (rest : List HostAction) (i : Instr), decode w = .ok i →
    step { s with script := .memWrite 0x000 .word w :: rest } =
      match exec i { s with script := rest } with
      | .next t => .next { t with responses := .ok :: t.responses }
      | .fault f => .fault f
      | .refused f => .refused f) ∧
  ∀ (s : State) (nbits w : Nat) (i : Instr), decodeTableWord nbits w = some i →
    step (s.withFetchWord nbits w) =
      match exec i s with
      | .next t => .next { t with responses := .ok :: t.responses }
      | .fault f => .fault f
      | .refused f => .refused f

/-- R100, R247: every step from every state completes and consumes exactly the next host action; CORE cannot hang. In three places
this is the model's choice and not those rules': a `CXCRYPT` past the counter range completes, where U1 tells a model to have no
transition (log entry 1, DESIGN CHOICE); with no host action waiting the step is idle (log entry 2, DESIGN CHOICE); and that nothing
else stops a step is an inference (log entry 10, DEDUCED). -/
def Obligations.EveryStepCompletes : Prop := ∀ s : State, ∃ t, step s = .next t ∧ t.script = s.script.tail

/-- R20 (the idle step is the model's choice, log entry 2): with no host action waiting nothing changes. -/
def Obligations.NoActionChangesNothing : Prop := ∀ s : State, s.script = [] → step s = .next s

/-- R44, R241: `Reset` and a soft reset give every piece of state its reset value, and the state after reset holds them; the host's
remaining actions stay. -/
def Obligations.BothResetsGiveTheResetValues : Prop :=
  Spec.ResetValues State.reset ∧
  ∀ (s : State) (rest : List HostAction),
    (∃ t, step { s with script := .reset :: rest } = .next t ∧ Spec.ResetValues t ∧ t.script = rest) ∧
    ∀ v : Word, v.getLsbD 0 = true →
      ∃ t, step { s with script := .memWrite 0x008 .word v :: rest } = .next t ∧ Spec.ResetValues t ∧ t.script = rest

/-- R38: a write to `CTRL` with bit 0 set has exactly the effect of `Reset`, one with bit 0 clear does nothing, the other bits are
ignored, and a read of `CTRL` returns 0. -/
def Obligations.CtrlWriteResetsExactlyOnBitZero : Prop :=
  ∀ (s : State) (rest : List HostAction) (v : Word),
    (v.getLsbD 0 = true →
      ∃ t, step { s with script := .reset :: rest } = .next t ∧
        step { s with script := .memWrite 0x008 .word v :: rest } = .next { t with responses := .ok :: t.responses }) ∧
    (v.getLsbD 0 = false →
      step { s with script := .memWrite 0x008 .word v :: rest } =
        .next { s with script := rest, responses := .ok :: s.responses }) ∧
    step { s with script := .memRead 0x008 .word :: rest } =
      .next { s with script := rest, responses := .value 0 :: s.responses }

/-! ### The invariant -/

/-- R44: the state after reset meets the invariant. -/
def Obligations.ResetMeetsTheInvariant : Prop := State.reset.Inv

/-- R34, R40, R29, R32, R171, R176: every step from a state that meets the invariant leads to one that meets it: the error flag
and code agree; while a context exists `S` is a permutation; while none exists `S` is zero; the cursors and `KSB` are zero until a
byte has been generated. -/
def Obligations.EveryStepKeepsTheInvariant : Prop := ∀ s t : State, s.Inv → step s = .next t → t.Inv

/-! ### Errors -/

/-- R213 (first sentence): while `ERR = 1` every word written to `CMD` is ignored, legal or not. -/
def Obligations.CommandsAreIgnoredWhileErrIsSet : Prop :=
  ∀ (s : State) (w : Word) (rest : List HostAction), s.err = true →
    step { s with script := .memWrite 0x000 .word w :: rest } =
      .next { s with script := rest, responses := .ok :: s.responses }

/-- R100 steps 3 to 5, R211, R214: with `ERR = 0` a command raises exactly the error the spec's table gives for its operands and the
phase, the first in the spec's order, and nothing else changes; where the table gives none the command completes and the
error flags stay. That a `CXCRYPT` past the counter range is among the commands that complete is the model's choice, where U1 tells a
model to refuse (log entry 1, DESIGN CHOICE), and so is the error of a term that no word encodes (log entry 7, DESIGN CHOICE). -/
def Obligations.ErrorsAreTheTableInItsOrder : Prop :=
  ∀ (i : Instr) (s : State), s.err = false →
    (∀ code, Spec.errorOf i s.rphase = some code → exec i s = .next { s with err := true, errcode := code }) ∧
    (Spec.errorOf i s.rphase = none → ∃ t, exec i s = .next t ∧ t.err = false ∧ t.errcode = s.errcode)

/-- R212: a `CMD` write that leaves `ERR` set where it was clear has changed `ERR` and `ERRCODE` and no other piece of state, and has
answered `OK`. -/
def Obligations.RaisingChangesOnlyTheErrorFlags : Prop :=
  ∀ (s t : State) (w : Word) (rest : List HostAction), s.err = false →
    step { s with script := .memWrite 0x000 .word w :: rest } = .next t → t.err = true →
    t.errcode ≠ .none ∧
    t = { s with script := rest, responses := .ok :: s.responses, err := true, errcode := t.errcode }

/-- R215: a step that clears `ERR` performed `Reset` or a soft reset, and has cleared all state. -/
def Obligations.OnlyResetClearsErr : Prop :=
  ∀ s t : State, s.err = true → step s = .next t → t.err = false →
    (∃ rest, s.script = .reset :: rest ∨
      ∃ v : Word, v.getLsbD 0 = true ∧ s.script = .memWrite 0x008 .word v :: rest) ∧
    Spec.ResetValues t

/-! ### All commands -/

/-- R43: no command writes `KEY`, `NONCE`, `CTR` or `RKEY`, and `CBLOCK` and `SBLOCK` do not write `ST`; a step that changes one of
the four performed a reset or a host write to another register than `CMD`. -/
def Obligations.CallerOwnedStateIsNeverWritten : Prop :=
  (∀ (i : Instr) (s t : State), exec i s = .next t →
    t.key = s.key ∧ t.nonce = s.nonce ∧ t.ctr = s.ctr ∧ t.rkey = s.rkey ∧
    (i = .cblock ∨ i = .sblock → t.st = s.st)) ∧
  ∀ s t : State, step s = .next t →
    t.key ≠ s.key ∨ t.nonce ≠ s.nonce ∨ t.ctr ≠ s.ctr ∨ t.rkey ≠ s.rkey →
    ∃ rest, s.script = .reset :: rest ∨ ∃ a width v, a ≠ 0x000 ∧ s.script = .memWrite a width v :: rest

/-- R45 (frames): every command leaves every piece of state as it was, except what its row of the table marks written, and the
error flags: of `X` only the four words that `CQR` and `SQR` name, of `DATA` only the `len` bytes of `CXCRYPT`, `RXCRYPT`
and `KXOR`. The model's own `freeCount` may move in a `CXCRYPT` (log entry 1). -/
def Obligations.CommandsTouchOnlyTheirRow : Prop :=
  ∀ (i : Instr) (s t : State), exec i s = .next t → t = Spec.touched i s t

/-- R220: the counters advance by the table's amounts, mod 2^32, when a command runs to its end; an ignored or a raised command
adds nothing; a step that writes no command leaves both counters, or it performed `Reset` or a write to `CTRL` with bit 0 set and cleared both
(R35, R38). -/
def Obligations.CountersAdvanceByTheTable : Prop :=
  (∀ (i : Instr) (s t : State), exec i s = .next t →
    (s.err = false ∧ t.err = false →
      t.nblk.toNat = (s.nblk.toNat + Spec.blocksOf i) % 2 ^ 32 ∧
      t.nbyte.toNat = (s.nbyte.toNat + Spec.bytesOf i) % 2 ^ 32) ∧
    (s.err = true ∨ t.err = true → t.nblk = s.nblk ∧ t.nbyte = s.nbyte)) ∧
  ∀ s t : State, step s = .next t → (∀ w rest, s.script ≠ .memWrite 0x000 .word w :: rest) →
    (t.nblk = s.nblk ∧ t.nbyte = s.nbyte) ∨
    (t.nblk = 0 ∧ t.nbyte = 0 ∧
      ∃ rest, s.script = .reset :: rest ∨
        ∃ v : Word, v.getLsbD 0 = true ∧ s.script = .memWrite 0x008 .word v :: rest)

/-! ### Word engine and ChaCha20 -/

/-- R12: rotation by the formula, and bit `i` goes to bit `(i + n) mod 32`. -/
def Obligations.RotationFollowsTheFormula : Prop :=
  ∀ (v : Word) (n : Nat), 1 ≤ n → n ≤ 31 →
    (rotl32 v n).toNat = (v.toNat * 2 ^ n) % 2 ^ 32 + v.toNat / 2 ^ (32 - n) ∧
    ∀ i, i < 32 → (rotl32 v n).getLsbD ((i + n) % 32) = v.getLsbD i

/-- R121: `XCOPY` copies `ST` to `X` and changes nothing else. -/
def Obligations.XcopyCopiesTheBank : Prop :=
  encode .xcopy = 0x01000000 ∧ ∀ s : State, s.err = false → exec .xcopy s = .next { s with x := s.st }

/-- R122: `XADD` adds `ST` to `X` word for word, mod 2^32, and changes nothing else. -/
def Obligations.XaddAddsWordForWord : Prop :=
  encode .xadd = 0x02000000 ∧
  ∀ s : State, s.err = false →
    ∃ t, exec .xadd s = .next t ∧ (∀ n : Fin 16, t.x[n].toNat = (s.x[n].toNat + s.st[n].toNat) % 2 ^ 32) ∧
      t = { s with x := t.x }

/-- R127: `CINIT` writes the sixteen words of the initial state to `ST` and changes nothing else. -/
def Obligations.CinitBuildsTheInitialState : Prop :=
  encode .cinit = 0x10000000 ∧
  ∀ s : State, s.err = false →
    ∃ t, exec .cinit s = .next t ∧
      (∀ n, n < 16 → Spec.words t.st n = Spec.chachaInit (Spec.bytes s.key) (Spec.bytes s.nonce) s.ctr.toNat n) ∧
      t = { s with st := t.st }

/-- R123, R124: `CQR` applies the quarter-round to the four words its distinct operands name, every other word and everything
else unchanged; with two equal operands it raises `QR_ALIAS`. -/
def Obligations.CqrAppliesTheQuarterRound : Prop :=
  ∀ (s : State) (a b c d : Fin 16), s.err = false →
    encode (.cqr a b c d) = 0x12000000 + BitVec.ofNat 32 (4096 * a.val + 256 * b.val + 16 * c.val + d.val) ∧
    (¬[a, b, c, d].Nodup → exec (.cqr a b c d) s = .next { s with err := true, errcode := .qrAlias }) ∧
    ([a, b, c, d].Nodup →
      ∃ t, exec (.cqr a b c d) s = .next t ∧
        (∀ n, n < 16 → Spec.words t.x n = Spec.quarter Spec.cqr a.val b.val c.val d.val (Spec.words s.x) n) ∧
        t = { s with x := t.x })

/-- R125: `CDR` applies the four column and then the four diagonal quarter-rounds to `X` and changes nothing else. -/
def Obligations.CdrIsColumnsThenDiagonals : Prop :=
  encode .cdr = 0x13000000 ∧
  ∀ s : State, s.err = false →
    ∃ t, exec .cdr s = .next t ∧
      (∀ n, n < 16 → Spec.words t.x n = Spec.chachaDoubleRound (Spec.words s.x) n) ∧ t = { s with x := t.x }

/-- R126: `CBLOCK` leaves in `X` ten double rounds of `ST` plus `ST`, counts one block, and changes nothing else. -/
def Obligations.CblockComputesTheBlock : Prop :=
  encode .cblock = 0x15000000 ∧
  ∀ s : State, s.err = false →
    ∃ t, exec .cblock s = .next t ∧
      (∀ n, n < 16 → Spec.words t.x n = Spec.block Spec.chachaDoubleRound (Spec.words s.st) n) ∧
      t.nblk.toNat = (s.nblk.toNat + 1) % 2 ^ 32 ∧ t = { s with x := t.x, nblk := t.nblk }

/-- R126, R130 (b), R154: `CBLOCK` and `SBLOCK` differ from `XCOPY`, ten double rounds, `XADD` only in counting one block. -/
def Obligations.BlockIsCopyTenDoubleRoundsAdd : Prop :=
  ∀ s : State, s.err = false →
    (∃ u, runCommands (.xcopy :: (List.replicate 10 .cdr ++ [.xadd])) s = .next u ∧
      exec .cblock s = .next { u with nblk := u.nblk + 1 }) ∧
    (∃ u, runCommands (.xcopy :: (List.replicate 10 .sdr ++ [.xadd])) s = .next u ∧
      exec .sblock s = .next { u with nblk := u.nblk + 1 })

/-- R102, R130 (a), R156 (a): `CCOLS` then `CDIAGS` has the effect of `CDR`; `SCOLS` then `SROWS` has the effect of `SDR`. -/
def Obligations.PseudoInstructionsMakeTheDoubleRounds : Prop :=
  ∀ s : State, runCommands (ccols ++ cdiags) s = exec .cdr s ∧ runCommands (scols ++ srows) s = exec .sdr s

/-- R128: `CXCRYPT len` XORs byte `k` of `DATA`, for every `k < len`, with byte `k mod 64` of the serialized block of counter
`CTR + k / 64`, leaves the other bytes, counts the blocks, and changes nothing else (`ST`, `X`, `KSB` and `CTR` among it); a
length above 256 raises `LEN_RANGE`. -/
def Obligations.CxcryptXorsTheKeystream : Prop :=
  ∀ (s : State) (len : Nat), s.err = false →
    (256 < len → exec (.cxcrypt len) s = .next { s with err := true, errcode := .lenRange }) ∧
    (len ≤ 256 → encode (.cxcrypt len) = 0x16000000 + BitVec.ofNat 32 len) ∧
    (len ≤ 256 → Spec.counterFits s.ctr len →
      ∃ t, exec (.cxcrypt len) s = .next t ∧
        (∀ k, k < 256 → Spec.bytes t.data k =
          if k < len then
            Spec.bytes s.data k ^^^
              Spec.serByte (Spec.block Spec.chachaDoubleRound
                (Spec.chachaInit (Spec.bytes s.key) (Spec.bytes s.nonce) (s.ctr.toNat + k / 64))) (k % 64)
          else Spec.bytes s.data k) ∧
        t.nblk.toNat = (s.nblk.toNat + (len + 63) / 64) % 2 ^ 32 ∧
        t = { s with data := t.data, nblk := t.nblk })

/-- R129, R45 (that the command runs with free data and is not refused is the model's choice, log entry 1): a `CXCRYPT` whose
counter would pass `0xFFFFFFFF` raises nothing, counts its blocks, and changes nothing but the first `len` bytes of `DATA`, `NBLK`
and the model's own count of free bytes. Nothing is said of what those bytes become. -/
def Obligations.CxcryptPastTheCounterRangeRuns : Prop :=
  ∀ (s : State) (len : Nat), s.err = false → len ≤ 256 → ¬Spec.counterFits s.ctr len →
    ∃ t, exec (.cxcrypt len) s = .next t ∧ t.nblk.toNat = (s.nblk.toNat + (len + 63) / 64) % 2 ^ 32 ∧
      (∀ k : Fin 256, len ≤ k.val → t.data[k] = s.data[k]) ∧
      t = { s with data := t.data, nblk := t.nblk, freeCount := t.freeCount }

/-- R128, R131: a second `CXCRYPT` of the same length restores `DATA`; only the block count remains. -/
def Obligations.CxcryptTwiceRestoresTheData : Prop :=
  ∀ (s : State) (len : Nat), s.err = false → len ≤ 256 → Spec.counterFits s.ctr len →
    runCommands [.cxcrypt len, .cxcrypt len] s =
      .next { s with nblk := s.nblk + BitVec.ofNat 32 (2 * ((len + 63) / 64)) }

/-- R130 (c): for `len <= 64`, `CINIT`; `CBLOCK`; `KXOR 0, len` leaves everything as `CXCRYPT len` does, except `ST` and `X`, which it
overwrites, and `NBLK`, to which it adds 1. -/
def Obligations.CinitCblockKxorIsCxcrypt : Prop :=
  ∀ (s : State) (len : Nat), s.err = false → len ≤ 64 →
    ∃ t u, exec (.cxcrypt len) s = .next t ∧ runCommands [.cinit, .cblock, .kxor 0 len] s = .next u ∧
      u = { t with st := u.st, x := u.x, nblk := s.nblk + 1 }

/-- R130 (d): a host that writes the counter, and issues `CINIT`, `CBLOCK`, `KXOR` for one block after the other, through the port and
in encoded commands, has at the end of its script everything as one `CXCRYPT len` leaves it, except `CTR`, `ST` and `X`, which it
overwrites, and the model's record of the script and of the responses (log entries 2 and 3). -/
def Obligations.HostScriptOfBlocksIsCxcrypt : Prop :=
  ∀ (s : State) (len : Nat), s.err = false → len ≤ 256 → Spec.counterFits s.ctr len →
    ∃ t u, exec (.cxcrypt len) s = .next t ∧
      Host.Core.run Sys2Proof.core (4 * ((len + 63) / 64)) { s with script := Spec.blockScript s.ctr len } = .next u ∧
      u = { t with st := u.st, x := u.x, ctr := u.ctr, script := [], responses := u.responses }

/-! ### Salsa20 -/

/-- R151, R152: `SQR` applies the Salsa20 quarter-round to the four words its distinct operands name, every other word and everything
else unchanged; with two equal operands it raises `QR_ALIAS`. -/
def Obligations.SqrAppliesTheQuarterRound : Prop :=
  ∀ (s : State) (a b c d : Fin 16), s.err = false →
    encode (.sqr a b c d) = 0x22000000 + BitVec.ofNat 32 (4096 * a.val + 256 * b.val + 16 * c.val + d.val) ∧
    (¬[a, b, c, d].Nodup → exec (.sqr a b c d) s = .next { s with err := true, errcode := .qrAlias }) ∧
    ([a, b, c, d].Nodup →
      ∃ t, exec (.sqr a b c d) s = .next t ∧
        (∀ n, n < 16 → Spec.words t.x n = Spec.quarter Spec.sqr a.val b.val c.val d.val (Spec.words s.x) n) ∧
        t = { s with x := t.x })

/-- R153: `SDR` applies the column round and then the row round of Salsa20 to `X` and changes nothing else. -/
def Obligations.SdrIsColumnsThenRows : Prop :=
  encode .sdr = 0x23000000 ∧
  ∀ s : State, s.err = false →
    ∃ t, exec .sdr s = .next t ∧
      (∀ n, n < 16 → Spec.words t.x n = Spec.salsaDoubleRound (Spec.words s.x) n) ∧ t = { s with x := t.x }

/-- R154: `SBLOCK` leaves in `X` ten double rounds of `ST` plus `ST`, counts one block, and changes nothing else. -/
def Obligations.SblockComputesTheBlock : Prop :=
  encode .sblock = 0x25000000 ∧
  ∀ s : State, s.err = false →
    ∃ t, exec .sblock s = .next t ∧
      (∀ n, n < 16 → Spec.words t.x n = Spec.block Spec.salsaDoubleRound (Spec.words s.st) n) ∧
      t.nblk.toNat = (s.nblk.toNat + 1) % 2 ^ 32 ∧ t = { s with x := t.x, nblk := t.nblk }

/-- R126, R154, R156 (b): the block of the all-zero state is all zero for both algorithms, and it is counted. -/
def Obligations.ZeroStateGivesTheZeroBlock : Prop :=
  ∀ s : State, s.err = false → (∀ n : Fin 16, s.st[n] = 0) →
    ∃ t, exec .sblock s = .next t ∧ exec .cblock s = .next t ∧ (∀ n : Fin 16, t.x[n] = 0) ∧ t.nblk = s.nblk + 1 ∧
      t = { s with x := t.x, nblk := t.nblk }

/-- R123, R151: both quarter-rounds are bijections on quadruples of words. -/
def Obligations.QuarterRoundsAreBijections : Prop :=
  Function.Bijective (fun q : Word × Word × Word × Word => cqr q.1 q.2.1 q.2.2.1 q.2.2.2) ∧
  Function.Bijective (fun q : Word × Word × Word × Word => sqr q.1 q.2.1 q.2.2.1 q.2.2.2)

/-! ### RC4 -/

/-- R172: in phase `UNINIT`, `RKSA` with a key length 1 to 256 leaves in `S` the permutation of the key-schedule loop, cursors 0, phase
`SCHEDULED`, and changes nothing else; a key length of 0 or above 256 raises `RC4_KEYLEN`, another phase `RC4_PHASE`. -/
def Obligations.RksaSchedulesTheKey : Prop :=
  ∀ (s : State) (keylen : Nat), s.err = false →
    (keylen = 0 ∨ 256 < keylen → exec (.rksa keylen) s = .next { s with err := true, errcode := .rc4Keylen }) ∧
    (1 ≤ keylen → keylen ≤ 256 → encode (.rksa keylen) = 0x30000000 + BitVec.ofNat 32 keylen) ∧
    (1 ≤ keylen → keylen ≤ 256 → s.rphase ≠ .uninit →
      exec (.rksa keylen) s = .next { s with err := true, errcode := .rc4Phase }) ∧
    (1 ≤ keylen → keylen ≤ 256 → s.rphase = .uninit →
      ∃ t, exec (.rksa keylen) s = .next t ∧
        (∀ k, k < 256 → Spec.bytes t.perm k = Spec.ksa (Spec.bytes s.rkey) keylen k) ∧ IsPermutation t.perm ∧
        t = { s with perm := t.perm, ri := 0, rj := 0, rphase := .scheduled })

/-- R172, R177 (a): the permutation depends on `RKEY[0..keylen-1]` and on nothing else of the state. -/
def Obligations.RksaReadsOnlyTheKeyBytes : Prop :=
  ∀ (s s' : State) (keylen : Nat), s.err = false → s'.err = false → s.rphase = .uninit → s'.rphase = .uninit →
    1 ≤ keylen → keylen ≤ 256 → (∀ k, k < keylen → Spec.bytes s.rkey k = Spec.bytes s'.rkey k) →
    ∃ t t', exec (.rksa keylen) s = .next t ∧ exec (.rksa keylen) s' = .next t' ∧ t.perm = t'.perm

/-- R173, R174: with a context, `RNEXT` makes one PRGA step and leaves the byte in `KSB`, phase `STREAMING`, one byte counted, and
changes nothing else; without one it raises `RC4_PHASE`. -/
def Obligations.RnextIsOnePrgaStep : Prop :=
  encode .rnext = 0x31000000 ∧
  ∀ s : State, s.err = false →
    (s.rphase = .uninit → exec .rnext s = .next { s with err := true, errcode := .rc4Phase }) ∧
    (s.rphase ≠ .uninit →
      ∃ t, exec .rnext s = .next t ∧
        t.ri.toNat = (s.ri.toNat + 1) % 256 ∧
        t.rj.toNat = (s.rj.toNat + Spec.bytes s.perm t.ri.toNat) % 256 ∧
        (∀ k, k < 256 → Spec.bytes t.perm k = Spec.swap (Spec.bytes s.perm) t.ri.toNat t.rj.toNat k) ∧
        t.ksb.toNat = Spec.bytes t.perm ((Spec.bytes t.perm t.ri.toNat + Spec.bytes t.perm t.rj.toNat) % 256) ∧
        t.nbyte.toNat = (s.nbyte.toNat + 1) % 2 ^ 32 ∧
        t = { s with perm := t.perm, ri := t.ri, rj := t.rj, ksb := t.ksb, rphase := .streaming, nbyte := t.nbyte })

/-- R175, R177 (d): with a context, `RXCRYPT len` XORs byte `k` of `DATA`, for every `k < len`, with the byte that the `(k+1)`-th of
successive `RNEXT`s would leave in `KSB`, leaves the context those `len` steps leave, counts `len` bytes, makes the phase
`STREAMING` when `len >= 1`, and changes nothing else (`KSB` among it); a length above 256 raises `LEN_RANGE`, and without a context
it raises `RC4_PHASE`, for `len = 0` too. -/
def Obligations.RxcryptUsesTheNextKeystreamBytes : Prop :=
  ∀ (s : State) (len : Nat), s.err = false →
    (256 < len → exec (.rxcrypt len) s = .next { s with err := true, errcode := .lenRange }) ∧
    (len ≤ 256 → encode (.rxcrypt len) = 0x32000000 + BitVec.ofNat 32 len) ∧
    (len ≤ 256 → s.rphase = .uninit → exec (.rxcrypt len) s = .next { s with err := true, errcode := .rc4Phase }) ∧
    (len ≤ 256 → s.rphase ≠ .uninit →
      ∃ (t : State) (u : Nat → State), exec (.rxcrypt len) s = .next t ∧
        u 0 = s ∧ (∀ k, exec .rnext (u k) = .next (u (k + 1))) ∧
        (∀ k : Fin 256, t.data[k] = if k.val < len then s.data[k] ^^^ (u (k.val + 1)).ksb else s.data[k]) ∧
        t.nbyte.toNat = (s.nbyte.toNat + len) % 2 ^ 32 ∧
        t = { s with data := t.data, perm := (u len).perm, ri := (u len).ri, rj := (u len).rj,
                     rphase := if len = 0 then s.rphase else .streaming, nbyte := t.nbyte })

/-- R176: `RDROP` zeroes `S`, the cursors and `KSB` and makes the phase `UNINIT`, in every phase, and changes nothing else; without
a context it changes nothing at all. -/
def Obligations.RdropDiscardsTheContext : Prop :=
  encode .rdrop = 0x33000000 ∧
  ∀ s : State, s.err = false →
    ∃ t, exec .rdrop s = .next t ∧ (∀ k : Fin 256, t.perm[k] = 0) ∧
      t = { s with perm := t.perm, ri := 0, rj := 0, ksb := 0, rphase := .uninit } ∧
      (s.Inv → s.rphase = .uninit → t = s)

/-- R171: the table of phase transitions, entry by entry, and that no command takes `STREAMING` back to `SCHEDULED`. -/
def Obligations.PhasesFollowTheTable : Prop :=
  ∀ s : State, s.err = false →
    (∀ keylen, 1 ≤ keylen → keylen ≤ 256 →
      (s.rphase = .uninit → ∃ t, exec (.rksa keylen) s = .next t ∧ t.rphase = .scheduled) ∧
      (s.rphase ≠ .uninit → exec (.rksa keylen) s = .next { s with err := true, errcode := .rc4Phase })) ∧
    (s.rphase = .uninit → exec .rnext s = .next { s with err := true, errcode := .rc4Phase }) ∧
    (s.rphase ≠ .uninit → ∃ t, exec .rnext s = .next t ∧ t.rphase = .streaming) ∧
    (∀ len, len ≤ 256 →
      (s.rphase = .uninit → exec (.rxcrypt len) s = .next { s with err := true, errcode := .rc4Phase }) ∧
      (s.rphase ≠ .uninit →
        ∃ t, exec (.rxcrypt len) s = .next t ∧ t.rphase = if len = 0 then s.rphase else .streaming)) ∧
    (∃ t, exec .rdrop s = .next t ∧ t.rphase = .uninit) ∧
    (∀ i t, exec i s = .next t → s.rphase = .streaming → t.rphase ≠ .scheduled)

/-- R177 (c): schedule, encrypt, drop, schedule the same key, decrypt: `DATA` is what it was. -/
def Obligations.Rc4SessionRoundTrip : Prop :=
  ∀ (s : State) (keylen len : Nat), s.err = false → s.rphase = .uninit → 1 ≤ keylen → keylen ≤ 256 → len ≤ 256 →
    ∃ t, runCommands [.rksa keylen, .rxcrypt len, .rdrop, .rksa keylen, .rxcrypt len] s = .next t ∧
      t.data = s.data ∧ t.rkey = s.rkey ∧ t.err = false ∧ t.nbyte = s.nbyte + BitVec.ofNat 32 (2 * len)

/-! ### The combiner -/

/-- R200, R201: `KXOR off, len` XORs byte `off + k` of `DATA`, for every `k < len`, with byte `k` of the serialized `X`, leaves every other
byte of `DATA` and everything else; a length above 64 or a range past the end of `DATA` raises `LEN_RANGE`. -/
def Obligations.KxorCombinesTheBlock : Prop :=
  ∀ (s : State) (off len : Nat), s.err = false →
    (64 < len ∨ 256 < off + len → exec (.kxor off len) s = .next { s with err := true, errcode := .lenRange }) ∧
    (len ≤ 64 → off < 256 → off + len ≤ 256 →
      encode (.kxor off len) = 0x40000000 + BitVec.ofNat 32 (65536 * off + len)) ∧
    (len ≤ 64 → off + len ≤ 256 →
      ∃ t, exec (.kxor off len) s = .next t ∧
        (∀ k, k < 256 → Spec.bytes t.data k =
          if off ≤ k ∧ k < off + len then Spec.bytes s.data k ^^^ Spec.serByte (Spec.words s.x) (k - off)
          else Spec.bytes s.data k) ∧
        t = { s with data := t.data })

/-- R202: `KXOR off, len` twice restores the state. -/
def Obligations.KxorTwiceRestoresTheData : Prop :=
  ∀ (s : State) (off len : Nat), s.err = false → len ≤ 64 → off + len ≤ 256 →
    runCommands [.kxor off len, .kxor off len] s = .next s

/-- R222: the RC4 context shares no state with the word engine, so a word-engine command and an RC4 command that do not raise can be
issued in either order. `CXCRYPT` and `KXOR` are not among the word-engine commands meant here: they share `DATA` with `RXCRYPT`. -/
def Obligations.WordEngineAndRc4Commute : Prop :=
  ∀ (i j : Instr) (s t u : State), Spec.wordEngine i = true → Spec.rc4Command j = true → s.err = false →
    exec i s = .next t → t.err = false → exec j s = .next u → u.err = false →
    ∃ v, runCommands [i, j] s = .next v ∧ runCommands [j, i] s = .next v

/-! ### The port -/

/-- R61: an address reaches exactly the register that the map puts there. -/
def Obligations.AddressMapIsExact : Prop := ∀ (a : Addr) (r : Reg), regAt a = some r ↔ a.toNat = r.address

/-- R62, R63, R68: a narrow, misaligned or unmapped access, and a write to a read-only register, answers `BUSERR` and changes no
state. -/
def Obligations.RefusedAccessesAnswerBusErr : Prop :=
  ∀ (s : State) (rest : List HostAction) (a : Addr) (width : Width) (v : Word),
    (width ≠ .word ∨ a.toNat % 4 ≠ 0 ∨ (0x04C ≤ a.toNat ∧ a.toNat ≤ 0x07F) ∨ 0x400 ≤ a.toNat →
      step { s with script := .memRead a width :: rest } =
        .next { s with script := rest, responses := .busErr :: s.responses } ∧
      step { s with script := .memWrite a width v :: rest } =
        .next { s with script := rest, responses := .busErr :: s.responses }) ∧
    (a.toNat = 0x004 ∨ (0x010 ≤ a.toNat ∧ a.toNat ≤ 0x01F) ∨ (0x300 ≤ a.toNat ∧ a.toNat ≤ 0x3FF) →
      step { s with script := .memWrite a width v :: rest } =
        .next { s with script := rest, responses := .busErr :: s.responses })

/-- R64, R37, R39: a read of a mapped register answers the value the tables give it, whether `ERR` is set or not, and changes no
state. -/
def Obligations.ReadsAnswerTheTableAndChangeNothing : Prop :=
  ∀ (s : State) (rest : List HostAction) (r : Reg),
    ∃ v : Word, v.toNat = Spec.registerValue s r ∧
      step { s with script := .memRead (BitVec.ofNat 12 r.address) .word :: rest } =
        .next { s with script := rest, responses := .value v :: s.responses }

/-- R65, R72, R77: a write to a storing register answers `OK`, reads back as written, and leaves what every other register reads as,
whether `ERR` is set or not. -/
def Obligations.WritesLandInTheAddressedRegister : Prop :=
  ∀ (s : State) (rest : List HostAction) (r : Reg) (v : Word), Spec.storing r = true →
    ∃ t, step { s with script := .memWrite (BitVec.ofNat 12 r.address) .word v :: rest } = .next t ∧
      t.script = rest ∧ t.responses = .ok :: s.responses ∧ t.freeCount = s.freeCount ∧
      readReg t r = v ∧ ∀ r', r' ≠ r → readReg t r' = readReg s r'

/-- R66: a word written to a byte array stores its byte `m` at index `4w + m`, for each of the four writable arrays, and changes nothing
else; a word read from one, and from `S`, has the byte of lowest index in bits 7:0. -/
def Obligations.ByteArraysArePackedLittleEndian : Prop :=
  ∀ (s : State) (rest : List HostAction) (v : Word),
    let lane : Nat → Nat := fun m => v.toNat / 256 ^ m % 256
    let after : Addr → State → Prop := fun a t =>
      step { s with script := .memWrite a .word v :: rest } =
        .next { t with script := rest, responses := .ok :: s.responses }
    let reads : Addr → Nat → Prop := fun a n =>
      ∃ u : Word, u.toNat = n ∧
        step { s with script := .memRead a .word :: rest } =
          .next { s with script := rest, responses := .value u :: s.responses }
    (∀ w : Fin 8, ∃ A, after (BitVec.ofNat 12 (0x020 + 4 * w.val)) { s with key := A } ∧
      ∀ k, k < 32 → Spec.bytes A k = if k / 4 = w.val then lane (k % 4) else Spec.bytes s.key k) ∧
    (∀ w : Fin 3, ∃ A, after (BitVec.ofNat 12 (0x040 + 4 * w.val)) { s with nonce := A } ∧
      ∀ k, k < 12 → Spec.bytes A k = if k / 4 = w.val then lane (k % 4) else Spec.bytes s.nonce k) ∧
    (∀ w : Fin 64, ∃ A, after (BitVec.ofNat 12 (0x100 + 4 * w.val)) { s with rkey := A } ∧
      ∀ k, k < 256 → Spec.bytes A k = if k / 4 = w.val then lane (k % 4) else Spec.bytes s.rkey k) ∧
    (∀ w : Fin 64, ∃ A, after (BitVec.ofNat 12 (0x200 + 4 * w.val)) { s with data := A } ∧
      ∀ k, k < 256 → Spec.bytes A k = if k / 4 = w.val then lane (k % 4) else Spec.bytes s.data k) ∧
    (∀ w : Fin 8, reads (BitVec.ofNat 12 (0x020 + 4 * w.val)) (Spec.le (Spec.bytes s.key) w.val)) ∧
    (∀ w : Fin 3, reads (BitVec.ofNat 12 (0x040 + 4 * w.val)) (Spec.le (Spec.bytes s.nonce) w.val)) ∧
    (∀ w : Fin 64, reads (BitVec.ofNat 12 (0x100 + 4 * w.val)) (Spec.le (Spec.bytes s.rkey) w.val)) ∧
    (∀ w : Fin 64, reads (BitVec.ofNat 12 (0x200 + 4 * w.val)) (Spec.le (Spec.bytes s.data) w.val)) ∧
    (∀ w : Fin 64, reads (BitVec.ofNat 12 (0x300 + 4 * w.val)) (Spec.le (Spec.bytes s.perm) w.val))

/-- R67: a word written to `ST` or to `X` replaces that word of that bank and changes nothing else; a word read from one is that word. -/
def Obligations.BanksHoldNumbersAndAreDistinct : Prop :=
  ∀ (s : State) (rest : List HostAction) (v : Word) (n : Fin 16),
    step { s with script := .memWrite (BitVec.ofNat 12 (0x080 + 4 * n.val)) .word v :: rest } =
      .next { s with st := s.st.set n.val v, script := rest, responses := .ok :: s.responses } ∧
    step { s with script := .memWrite (BitVec.ofNat 12 (0x0C0 + 4 * n.val)) .word v :: rest } =
      .next { s with x := s.x.set n.val v, script := rest, responses := .ok :: s.responses } ∧
    step { s with script := .memRead (BitVec.ofNat 12 (0x080 + 4 * n.val)) .word :: rest } =
      .next { s with script := rest, responses := .value s.st[n] :: s.responses } ∧
    step { s with script := .memRead (BitVec.ofNat 12 (0x0C0 + 4 * n.val)) .word :: rest } =
      .next { s with script := rest, responses := .value s.x[n] :: s.responses }
end

