-- ==== Sys2Proof/Laws/State.lean ====
section
/-! SUPPORT. One lemma per field per named update of the state, so that no proof unfolds an update. -/

namespace Sys2Proof.Machine

open Sys2Proof

/-! ### Raising an error changes `ERR` and `ERRCODE` only (R212) -/

@[simp] theorem State.raise_st (code : ErrCode) (s : State) : (s.raise code).st = s.st := rfl
@[simp] theorem State.raise_x (code : ErrCode) (s : State) : (s.raise code).x = s.x := rfl
@[simp] theorem State.raise_key (code : ErrCode) (s : State) : (s.raise code).key = s.key := rfl
@[simp] theorem State.raise_nonce (code : ErrCode) (s : State) : (s.raise code).nonce = s.nonce := rfl
@[simp] theorem State.raise_ctr (code : ErrCode) (s : State) : (s.raise code).ctr = s.ctr := rfl
@[simp] theorem State.raise_perm (code : ErrCode) (s : State) : (s.raise code).perm = s.perm := rfl
@[simp] theorem State.raise_ri (code : ErrCode) (s : State) : (s.raise code).ri = s.ri := rfl
@[simp] theorem State.raise_rj (code : ErrCode) (s : State) : (s.raise code).rj = s.rj := rfl
@[simp] theorem State.raise_rphase (code : ErrCode) (s : State) : (s.raise code).rphase = s.rphase := rfl
@[simp] theorem State.raise_rkey (code : ErrCode) (s : State) : (s.raise code).rkey = s.rkey := rfl
@[simp] theorem State.raise_ksb (code : ErrCode) (s : State) : (s.raise code).ksb = s.ksb := rfl
@[simp] theorem State.raise_data (code : ErrCode) (s : State) : (s.raise code).data = s.data := rfl
@[simp] theorem State.raise_err (code : ErrCode) (s : State) : (s.raise code).err = true := rfl
@[simp] theorem State.raise_errcode (code : ErrCode) (s : State) : (s.raise code).errcode = code := rfl
@[simp] theorem State.raise_nblk (code : ErrCode) (s : State) : (s.raise code).nblk = s.nblk := rfl
@[simp] theorem State.raise_nbyte (code : ErrCode) (s : State) : (s.raise code).nbyte = s.nbyte := rfl
@[simp] theorem State.raise_script (code : ErrCode) (s : State) : (s.raise code).script = s.script := rfl
@[simp] theorem State.raise_responses (code : ErrCode) (s : State) : (s.raise code).responses = s.responses := rfl
@[simp] theorem State.raise_freeCount (code : ErrCode) (s : State) : (s.raise code).freeCount = s.freeCount := rfl

/-! ### A reset gives CORE's state its reset values (R44) -/

@[simp] theorem State.resetCore_st (s : State) : (s.resetCore).st = State.reset.st := rfl
@[simp] theorem State.resetCore_x (s : State) : (s.resetCore).x = State.reset.x := rfl
@[simp] theorem State.resetCore_key (s : State) : (s.resetCore).key = State.reset.key := rfl
@[simp] theorem State.resetCore_nonce (s : State) : (s.resetCore).nonce = State.reset.nonce := rfl
@[simp] theorem State.resetCore_ctr (s : State) : (s.resetCore).ctr = State.reset.ctr := rfl
@[simp] theorem State.resetCore_perm (s : State) : (s.resetCore).perm = State.reset.perm := rfl
@[simp] theorem State.resetCore_ri (s : State) : (s.resetCore).ri = State.reset.ri := rfl
@[simp] theorem State.resetCore_rj (s : State) : (s.resetCore).rj = State.reset.rj := rfl
@[simp] theorem State.resetCore_rphase (s : State) : (s.resetCore).rphase = State.reset.rphase := rfl
@[simp] theorem State.resetCore_rkey (s : State) : (s.resetCore).rkey = State.reset.rkey := rfl
@[simp] theorem State.resetCore_ksb (s : State) : (s.resetCore).ksb = State.reset.ksb := rfl
@[simp] theorem State.resetCore_data (s : State) : (s.resetCore).data = State.reset.data := rfl
@[simp] theorem State.resetCore_err (s : State) : (s.resetCore).err = State.reset.err := rfl
@[simp] theorem State.resetCore_errcode (s : State) : (s.resetCore).errcode = State.reset.errcode := rfl
@[simp] theorem State.resetCore_nblk (s : State) : (s.resetCore).nblk = State.reset.nblk := rfl
@[simp] theorem State.resetCore_nbyte (s : State) : (s.resetCore).nbyte = State.reset.nbyte := rfl
@[simp] theorem State.resetCore_script (s : State) : (s.resetCore).script = s.script := rfl
@[simp] theorem State.resetCore_responses (s : State) : (s.resetCore).responses = s.responses := rfl
@[simp] theorem State.resetCore_freeCount (s : State) : (s.resetCore).freeCount = s.freeCount := rfl

/-! ### A response is recorded and nothing else changes -/

@[simp] theorem State.respond_st (r : Response) (s : State) : (s.respond r).st = s.st := rfl
@[simp] theorem State.respond_x (r : Response) (s : State) : (s.respond r).x = s.x := rfl
@[simp] theorem State.respond_key (r : Response) (s : State) : (s.respond r).key = s.key := rfl
@[simp] theorem State.respond_nonce (r : Response) (s : State) : (s.respond r).nonce = s.nonce := rfl
@[simp] theorem State.respond_ctr (r : Response) (s : State) : (s.respond r).ctr = s.ctr := rfl
@[simp] theorem State.respond_perm (r : Response) (s : State) : (s.respond r).perm = s.perm := rfl
@[simp] theorem State.respond_ri (r : Response) (s : State) : (s.respond r).ri = s.ri := rfl
@[simp] theorem State.respond_rj (r : Response) (s : State) : (s.respond r).rj = s.rj := rfl
@[simp] theorem State.respond_rphase (r : Response) (s : State) : (s.respond r).rphase = s.rphase := rfl
@[simp] theorem State.respond_rkey (r : Response) (s : State) : (s.respond r).rkey = s.rkey := rfl
@[simp] theorem State.respond_ksb (r : Response) (s : State) : (s.respond r).ksb = s.ksb := rfl
@[simp] theorem State.respond_data (r : Response) (s : State) : (s.respond r).data = s.data := rfl
@[simp] theorem State.respond_err (r : Response) (s : State) : (s.respond r).err = s.err := rfl
@[simp] theorem State.respond_errcode (r : Response) (s : State) : (s.respond r).errcode = s.errcode := rfl
@[simp] theorem State.respond_nblk (r : Response) (s : State) : (s.respond r).nblk = s.nblk := rfl
@[simp] theorem State.respond_nbyte (r : Response) (s : State) : (s.respond r).nbyte = s.nbyte := rfl
@[simp] theorem State.respond_script (r : Response) (s : State) : (s.respond r).script = s.script := rfl
@[simp] theorem State.respond_responses (r : Response) (s : State) : (s.respond r).responses = r :: s.responses := rfl
@[simp] theorem State.respond_freeCount (r : Response) (s : State) : (s.respond r).freeCount = s.freeCount := rfl

/-! ### Counting blocks changes `NBLK` only (R220) -/

@[simp] theorem State.countBlocks_st (n : Nat) (s : State) : (s.countBlocks n).st = s.st := rfl
@[simp] theorem State.countBlocks_x (n : Nat) (s : State) : (s.countBlocks n).x = s.x := rfl
@[simp] theorem State.countBlocks_key (n : Nat) (s : State) : (s.countBlocks n).key = s.key := rfl
@[simp] theorem State.countBlocks_nonce (n : Nat) (s : State) : (s.countBlocks n).nonce = s.nonce := rfl
@[simp] theorem State.countBlocks_ctr (n : Nat) (s : State) : (s.countBlocks n).ctr = s.ctr := rfl
@[simp] theorem State.countBlocks_perm (n : Nat) (s : State) : (s.countBlocks n).perm = s.perm := rfl
@[simp] theorem State.countBlocks_ri (n : Nat) (s : State) : (s.countBlocks n).ri = s.ri := rfl
@[simp] theorem State.countBlocks_rj (n : Nat) (s : State) : (s.countBlocks n).rj = s.rj := rfl
@[simp] theorem State.countBlocks_rphase (n : Nat) (s : State) : (s.countBlocks n).rphase = s.rphase := rfl
@[simp] theorem State.countBlocks_rkey (n : Nat) (s : State) : (s.countBlocks n).rkey = s.rkey := rfl
@[simp] theorem State.countBlocks_ksb (n : Nat) (s : State) : (s.countBlocks n).ksb = s.ksb := rfl
@[simp] theorem State.countBlocks_data (n : Nat) (s : State) : (s.countBlocks n).data = s.data := rfl
@[simp] theorem State.countBlocks_err (n : Nat) (s : State) : (s.countBlocks n).err = s.err := rfl
@[simp] theorem State.countBlocks_errcode (n : Nat) (s : State) : (s.countBlocks n).errcode = s.errcode := rfl
@[simp] theorem State.countBlocks_nblk (n : Nat) (s : State) : (s.countBlocks n).nblk = s.nblk + BitVec.ofNat 32 n := rfl
@[simp] theorem State.countBlocks_nbyte (n : Nat) (s : State) : (s.countBlocks n).nbyte = s.nbyte := rfl
@[simp] theorem State.countBlocks_script (n : Nat) (s : State) : (s.countBlocks n).script = s.script := rfl
@[simp] theorem State.countBlocks_responses (n : Nat) (s : State) : (s.countBlocks n).responses = s.responses := rfl
@[simp] theorem State.countBlocks_freeCount (n : Nat) (s : State) : (s.countBlocks n).freeCount = s.freeCount := rfl

/-! ### Counting bytes changes `NBYTE` only (R220) -/

@[simp] theorem State.countBytes_st (n : Nat) (s : State) : (s.countBytes n).st = s.st := rfl
@[simp] theorem State.countBytes_x (n : Nat) (s : State) : (s.countBytes n).x = s.x := rfl
@[simp] theorem State.countBytes_key (n : Nat) (s : State) : (s.countBytes n).key = s.key := rfl
@[simp] theorem State.countBytes_nonce (n : Nat) (s : State) : (s.countBytes n).nonce = s.nonce := rfl
@[simp] theorem State.countBytes_ctr (n : Nat) (s : State) : (s.countBytes n).ctr = s.ctr := rfl
@[simp] theorem State.countBytes_perm (n : Nat) (s : State) : (s.countBytes n).perm = s.perm := rfl
@[simp] theorem State.countBytes_ri (n : Nat) (s : State) : (s.countBytes n).ri = s.ri := rfl
@[simp] theorem State.countBytes_rj (n : Nat) (s : State) : (s.countBytes n).rj = s.rj := rfl
@[simp] theorem State.countBytes_rphase (n : Nat) (s : State) : (s.countBytes n).rphase = s.rphase := rfl
@[simp] theorem State.countBytes_rkey (n : Nat) (s : State) : (s.countBytes n).rkey = s.rkey := rfl
@[simp] theorem State.countBytes_ksb (n : Nat) (s : State) : (s.countBytes n).ksb = s.ksb := rfl
@[simp] theorem State.countBytes_data (n : Nat) (s : State) : (s.countBytes n).data = s.data := rfl
@[simp] theorem State.countBytes_err (n : Nat) (s : State) : (s.countBytes n).err = s.err := rfl
@[simp] theorem State.countBytes_errcode (n : Nat) (s : State) : (s.countBytes n).errcode = s.errcode := rfl
@[simp] theorem State.countBytes_nblk (n : Nat) (s : State) : (s.countBytes n).nblk = s.nblk := rfl
@[simp] theorem State.countBytes_nbyte (n : Nat) (s : State) : (s.countBytes n).nbyte = s.nbyte + BitVec.ofNat 32 n := rfl
@[simp] theorem State.countBytes_script (n : Nat) (s : State) : (s.countBytes n).script = s.script := rfl
@[simp] theorem State.countBytes_responses (n : Nat) (s : State) : (s.countBytes n).responses = s.responses := rfl
@[simp] theorem State.countBytes_freeCount (n : Nat) (s : State) : (s.countBytes n).freeCount = s.freeCount := rfl

/-! ### Replacing the RC4 context changes `S`, `RI`, `RJ` only (R170) -/

@[simp] theorem State.withContext_st (c : Rc4Context) (s : State) : (s.withContext c).st = s.st := rfl
@[simp] theorem State.withContext_x (c : Rc4Context) (s : State) : (s.withContext c).x = s.x := rfl
@[simp] theorem State.withContext_key (c : Rc4Context) (s : State) : (s.withContext c).key = s.key := rfl
@[simp] theorem State.withContext_nonce (c : Rc4Context) (s : State) : (s.withContext c).nonce = s.nonce := rfl
@[simp] theorem State.withContext_ctr (c : Rc4Context) (s : State) : (s.withContext c).ctr = s.ctr := rfl
@[simp] theorem State.withContext_perm (c : Rc4Context) (s : State) : (s.withContext c).perm = c.perm := rfl
@[simp] theorem State.withContext_ri (c : Rc4Context) (s : State) : (s.withContext c).ri = c.i := rfl
@[simp] theorem State.withContext_rj (c : Rc4Context) (s : State) : (s.withContext c).rj = c.j := rfl
@[simp] theorem State.withContext_rphase (c : Rc4Context) (s : State) : (s.withContext c).rphase = s.rphase := rfl
@[simp] theorem State.withContext_rkey (c : Rc4Context) (s : State) : (s.withContext c).rkey = s.rkey := rfl
@[simp] theorem State.withContext_ksb (c : Rc4Context) (s : State) : (s.withContext c).ksb = s.ksb := rfl
@[simp] theorem State.withContext_data (c : Rc4Context) (s : State) : (s.withContext c).data = s.data := rfl
@[simp] theorem State.withContext_err (c : Rc4Context) (s : State) : (s.withContext c).err = s.err := rfl
@[simp] theorem State.withContext_errcode (c : Rc4Context) (s : State) : (s.withContext c).errcode = s.errcode := rfl
@[simp] theorem State.withContext_nblk (c : Rc4Context) (s : State) : (s.withContext c).nblk = s.nblk := rfl
@[simp] theorem State.withContext_nbyte (c : Rc4Context) (s : State) : (s.withContext c).nbyte = s.nbyte := rfl
@[simp] theorem State.withContext_script (c : Rc4Context) (s : State) : (s.withContext c).script = s.script := rfl
@[simp] theorem State.withContext_responses (c : Rc4Context) (s : State) : (s.withContext c).responses = s.responses := rfl
@[simp] theorem State.withContext_freeCount (c : Rc4Context) (s : State) : (s.withContext c).freeCount = s.freeCount := rfl

/-! ### Pushing a command changes the script only -/

@[simp] theorem State.pushCommand_st (w : Word) (s : State) : (s.pushCommand w).st = s.st := rfl
@[simp] theorem State.pushCommand_x (w : Word) (s : State) : (s.pushCommand w).x = s.x := rfl
@[simp] theorem State.pushCommand_key (w : Word) (s : State) : (s.pushCommand w).key = s.key := rfl
@[simp] theorem State.pushCommand_nonce (w : Word) (s : State) : (s.pushCommand w).nonce = s.nonce := rfl
@[simp] theorem State.pushCommand_ctr (w : Word) (s : State) : (s.pushCommand w).ctr = s.ctr := rfl
@[simp] theorem State.pushCommand_perm (w : Word) (s : State) : (s.pushCommand w).perm = s.perm := rfl
@[simp] theorem State.pushCommand_ri (w : Word) (s : State) : (s.pushCommand w).ri = s.ri := rfl
@[simp] theorem State.pushCommand_rj (w : Word) (s : State) : (s.pushCommand w).rj = s.rj := rfl
@[simp] theorem State.pushCommand_rphase (w : Word) (s : State) : (s.pushCommand w).rphase = s.rphase := rfl
@[simp] theorem State.pushCommand_rkey (w : Word) (s : State) : (s.pushCommand w).rkey = s.rkey := rfl
@[simp] theorem State.pushCommand_ksb (w : Word) (s : State) : (s.pushCommand w).ksb = s.ksb := rfl
@[simp] theorem State.pushCommand_data (w : Word) (s : State) : (s.pushCommand w).data = s.data := rfl
@[simp] theorem State.pushCommand_err (w : Word) (s : State) : (s.pushCommand w).err = s.err := rfl
@[simp] theorem State.pushCommand_errcode (w : Word) (s : State) : (s.pushCommand w).errcode = s.errcode := rfl
@[simp] theorem State.pushCommand_nblk (w : Word) (s : State) : (s.pushCommand w).nblk = s.nblk := rfl
@[simp] theorem State.pushCommand_nbyte (w : Word) (s : State) : (s.pushCommand w).nbyte = s.nbyte := rfl
@[simp] theorem State.pushCommand_script (w : Word) (s : State) : (s.pushCommand w).script = .memWrite 0x000 .word w :: s.script := rfl
@[simp] theorem State.pushCommand_responses (w : Word) (s : State) : (s.pushCommand w).responses = s.responses := rfl
@[simp] theorem State.pushCommand_freeCount (w : Word) (s : State) : (s.pushCommand w).freeCount = s.freeCount := rfl

/-! ### The context a state holds -/

@[simp] theorem State.context_perm (s : State) : s.context.perm = s.perm := rfl
@[simp] theorem State.context_i (s : State) : s.context.i = s.ri := rfl
@[simp] theorem State.context_j (s : State) : s.context.j = s.rj := rfl
@[simp] theorem State.context_withContext (c : Rc4Context) (s : State) : (s.withContext c).context = c := rfl

/-! ### The reset state (R44) -/

@[simp] theorem State.reset_rphase : State.reset.rphase = .uninit := rfl
@[simp] theorem State.reset_err : State.reset.err = false := rfl
@[simp] theorem State.reset_errcode : State.reset.errcode = .none := rfl

end Sys2Proof.Machine
end

