-- ==== Sys2Proof/Laws/Ops.lean ====
section
/-! SUPPORT. One lemma per shared operation that says everything the operation can do: bytes and words, banks, the combiner,
the common prelude. -/

namespace Sys2Proof.Machine

open Sys2Proof

/-! ### Words and bytes (R12, R14) -/

theorem byteOf_toNat (w : Word) (m : Nat) : (byteOf w m).toNat = w.toNat / 2 ^ (8 * m) % 256 := by
  simp [byteOf, Nat.shiftRight_eq_div_pow]

theorem le32_toNat (b0 b1 b2 b3 : Byte) :
    (le32 b0 b1 b2 b3).toNat = b0.toNat + 256 * b1.toNat + 65536 * b2.toNat + 16777216 * b3.toNat := by
  have h0 := b0.isLt
  have h1 := b1.isLt
  have h2 := b2.isLt
  have h3 := b3.isLt
  simp only [le32, BitVec.toNat_append]
  rw [← Nat.shiftLeft_add_eq_or_of_lt h0, ← Nat.shiftLeft_add_eq_or_of_lt h1, ← Nat.shiftLeft_add_eq_or_of_lt h2]
  simp only [Nat.shiftLeft_eq]
  omega

/-- The four bytes of a word put together give the word. -/
theorem le32_byteOf (w : Word) : le32 (byteOf w 0) (byteOf w 1) (byteOf w 2) (byteOf w 3) = w := by
  have h := w.isLt
  apply BitVec.eq_of_toNat_eq
  simp only [le32_toNat, byteOf_toNat]
  omega

theorem ser_length (b : Bank) : (ser b).length = 64 := List.length_ofFn

theorem ser_getElem (b : Bank) (k : Nat) (h : k < (ser b).length) :
    (ser b)[k] = byteOf (b[k / 4]'(by rw [ser_length] at h; omega)) (k % 4) :=
  List.getElem_ofFn ..

/-! ### Byte arrays as port words (R66) -/

theorem storeWord_getElem {n : Nat} (bytes : Vector Byte n) (w : Nat) (v : Word) (h : 4 * w + 3 < n) (k : Nat) (hk : k < n) :
    (storeWord bytes w v h)[k] = if k / 4 = w then byteOf v (k % 4) else bytes[k] := by
  simp only [storeWord, Vector.getElem_set]
  by_cases hq : k / 4 = w
  · have : k % 4 = 0 ∨ k % 4 = 1 ∨ k % 4 = 2 ∨ k % 4 = 3 := by omega
    rcases this with hr | hr | hr | hr <;> simp only [hq, hr, if_true] <;> split_ifs <;> first | rfl | omega
  · simp only [hq, if_false]
    split_ifs <;> first | rfl | omega

theorem packedWord_storeWord_same {n : Nat} (bytes : Vector Byte n) (w : Nat) (v : Word) (h : 4 * w + 3 < n) :
    packedWord (storeWord bytes w v h) w h = v := by
  have e : ∀ m, m < 4 → (4 * w + m) / 4 = w ∧ (4 * w + m) % 4 = m := by omega
  have e0 := e 0 (by omega)
  simp only [packedWord, storeWord_getElem, e 1 (by omega), e 2 (by omega), e 3 (by omega), if_true]
  simp only [Nat.add_zero] at e0
  simp only [e0, if_true, le32_byteOf]

theorem packedWord_storeWord_other {n : Nat} (bytes : Vector Byte n) (w u : Nat) (v : Word) (h : 4 * w + 3 < n)
    (h' : 4 * u + 3 < n) (hne : u ≠ w) : packedWord (storeWord bytes w v h) u h' = packedWord bytes u h' := by
  have e : ∀ m, m < 4 → (4 * u + m) / 4 ≠ w := by omega
  have e0 := e 0 (by omega)
  simp only [Nat.add_zero] at e0
  simp only [packedWord, storeWord_getElem, e0, e 1 (by omega), e 2 (by omega), e 3 (by omega), if_false]

/-! ### Banks (R122, R124, R152) -/

@[simp] theorem addBanks_getElem (a b : Bank) (n : Nat) (h : n < 16) : (addBanks a b)[n] = a[n] + b[n] := by
  simp [addBanks]

/-- A word the group does not name is untouched. -/
theorem quarterAt_other (f : Quarter) (v : Bank) (a b c d n : Fin 16) (ha : n ≠ a) (hb : n ≠ b) (hc : n ≠ c) (hd : n ≠ d) :
    (quarterAt f v (a, b, c, d))[n] = v[n] := by
  simp only [quarterAt, Fin.getElem_fin, Vector.getElem_set]
  simp [Fin.val_ne_of_ne ha.symm, Fin.val_ne_of_ne hb.symm, Fin.val_ne_of_ne hc.symm, Fin.val_ne_of_ne hd.symm]

/-- With four distinct indices the group's words take the four results. -/
theorem quarterAt_group (f : Quarter) (v : Bank) (a b c d : Fin 16)
    (hab : a ≠ b) (hac : a ≠ c) (had : a ≠ d) (hbc : b ≠ c) (hbd : b ≠ d) (hcd : c ≠ d) :
    ((quarterAt f v (a, b, c, d))[a], (quarterAt f v (a, b, c, d))[b],
      (quarterAt f v (a, b, c, d))[c], (quarterAt f v (a, b, c, d))[d]) = f v[a] v[b] v[c] v[d] := by
  simp only [quarterAt, Fin.getElem_fin, Vector.getElem_set]
  simp [Fin.val_ne_of_ne hab.symm, Fin.val_ne_of_ne hac.symm, Fin.val_ne_of_ne had.symm, Fin.val_ne_of_ne hbc.symm,
    Fin.val_ne_of_ne hbd.symm, Fin.val_ne_of_ne hcd.symm]

/-! ### The combiner (R200) -/

theorem combine_getElem (data : Vector Byte 256) (off : Nat) (ks : List Byte) (k : Nat) (h : k < 256) :
    (combine data off ks)[k] =
      if h' : off ≤ k ∧ k - off < ks.length then data[k] ^^^ ks[k - off] else data[k] := by
  simp [combine]

theorem combine_nil (data : Vector Byte 256) (off : Nat) : combine data off [] = data := by
  ext k h
  simp [combine_getElem]

/-- XOR is self-inverse, so combining twice with one keystream restores the data (R11, R200). -/
theorem combine_combine (data : Vector Byte 256) (off : Nat) (ks : List Byte) :
    combine (combine data off ks) off ks = data := by
  ext k h : 1
  simp only [combine_getElem]
  split
  · rw [BitVec.xor_assoc, BitVec.xor_self, BitVec.xor_zero]
  · rfl

/-! ### The common prelude (R100) -/

section

variable (o t : Option ErrCode) (f : State → State) (s : State)

theorem command_ignored (h : s.err = true) : command o t f s = .next s := by simp [command, h]

theorem command_operandError (h : s.err = false) (code : ErrCode) : command (some code) t f s = .next (s.raise code) := by
  simp [command, h]

theorem command_stateError (h : s.err = false) (code : ErrCode) :
    command none (some code) f s = .next (s.raise code) := by
  simp [command, h]

theorem command_runs (h : s.err = false) : command none none f s = .next (f s) := by simp [command, h]

/-- Everything a command can do: it is ignored, it raises the first error that applies, or it has its effect. -/
theorem command_cases {u : State} (h : command o t f s = .next u) :
    (s.err = true ∧ u = s) ∨
    (s.err = false ∧ ∃ code, o.or t = some code ∧ u = s.raise code) ∨
    (s.err = false ∧ o = none ∧ t = none ∧ u = f s) := by
  cases he : s.err
  · cases o with
    | some c => exact .inr (.inl ⟨rfl, c, rfl, by simpa [command, he] using h.symm⟩)
    | none =>
      cases t with
      | some c => exact .inr (.inl ⟨rfl, c, rfl, by simpa [command, he] using h.symm⟩)
      | none => exact .inr (.inr ⟨rfl, rfl, rfl, by simpa [command, he] using h.symm⟩)
  · exact .inl ⟨rfl, by simpa [command, he] using h.symm⟩

/-- The prelude always answers a next state. -/
theorem command_next : ∃ u, command o t f s = .next u := by
  unfold command
  split
  · exact ⟨_, rfl⟩
  · split
    · exact ⟨_, rfl⟩
    · split <;> exact ⟨_, rfl⟩

end

end Sys2Proof.Machine
end

