-- ==== Sys2Proof/Laws/Exec.lean ====
section
/-! SUPPORT. Every command in one form: its operand check, its state check, its effect (R100). -/

namespace Sys2Proof.Machine

open Sys2Proof

/-- Step 4 of R100, per command. -/
def operandErrorOf : Instr → Option ErrCode
  | .cqr a b c d => indexError a b c d
  | .sqr a b c d => indexError a b c d
  | .cxcrypt len => lengthError len
  | .rxcrypt len => lengthError len
  | .rksa keylen => keylenError keylen
  | .kxor off len => rangeError off len
  | .xcopy => none
  | .xadd => none
  | .cinit => none
  | .cdr => none
  | .cblock => none
  | .sdr => none
  | .sblock => none
  | .rnext => none
  | .rdrop => none

/-- Step 5 of R100, per command. -/
def stateErrorOf (s : State) : Instr → Option ErrCode
  | .rksa _ => needsFresh s
  | .rnext => needsContext s
  | .rxcrypt _ => needsContext s
  | .cqr _ _ _ _ => none
  | .sqr _ _ _ _ => none
  | .cxcrypt _ => none
  | .kxor _ _ => none
  | .xcopy => none
  | .xadd => none
  | .cinit => none
  | .cdr => none
  | .cblock => none
  | .sdr => none
  | .sblock => none
  | .rdrop => none

/-- Step 6 of R100, per command. -/
def effectOf (s : State) : Instr → State
  | .xcopy => xcopyEffect s
  | .xadd => xaddEffect s
  | .cinit => cinitEffect s
  | .cqr a b c d => cqrEffect (a, b, c, d) s
  | .cdr => cdrEffect s
  | .cblock => cblockEffect s
  | .cxcrypt len => cxcryptEffect len s
  | .sqr a b c d => sqrEffect (a, b, c, d) s
  | .sdr => sdrEffect s
  | .sblock => sblockEffect s
  | .rksa keylen => rksaEffect keylen s
  | .rnext => rnextEffect s
  | .rxcrypt len => rxcryptEffect len s
  | .rdrop => rdropEffect s
  | .kxor off len => kxorEffect off len s

/-- Every command is the common prelude around its own checks and effect. -/
theorem exec_eq_command (i : Instr) (s : State) :
    exec i s = command (operandErrorOf i) (stateErrorOf s i) (fun s => effectOf s i) s := by
  cases i <;> rfl

/-- Everything executing a command can do: it is ignored, it raises the first error that applies, or it has its effect. -/
theorem exec_cases {i : Instr} {s u : State} (h : exec i s = .next u) :
    (s.err = true ∧ u = s) ∨
    (s.err = false ∧ ∃ code, (operandErrorOf i).or (stateErrorOf s i) = some code ∧ u = s.raise code) ∨
    (s.err = false ∧ operandErrorOf i = none ∧ stateErrorOf s i = none ∧ u = effectOf s i) := by
  rw [exec_eq_command] at h
  exact command_cases _ _ _ _ h

/-- No effect touches the error flags. -/
theorem effectOf_err (s : State) (i : Instr) : (effectOf s i).err = s.err := by
  cases i with
  | cxcrypt len => simp only [effectOf, cxcryptEffect]; split <;> simp only [State.countBlocks_err]
  | _ =>
    simp only [effectOf, xcopyEffect, xaddEffect, cinitEffect, cqrEffect, cdrEffect, cblockEffect, sqrEffect, sdrEffect,
      sblockEffect, rksaEffect, rnextEffect, rxcryptEffect, rdropEffect, kxorEffect, State.countBlocks_err,
      State.countBytes_err, State.withContext_err]

theorem effectOf_errcode (s : State) (i : Instr) : (effectOf s i).errcode = s.errcode := by
  cases i with
  | cxcrypt len => simp only [effectOf, cxcryptEffect]; split <;> simp only [State.countBlocks_errcode]
  | _ =>
    simp only [effectOf, xcopyEffect, xaddEffect, cinitEffect, cqrEffect, cdrEffect, cblockEffect, sqrEffect, sdrEffect,
      sblockEffect, rksaEffect, rnextEffect, rxcryptEffect, rdropEffect, kxorEffect, State.countBlocks_errcode,
      State.countBytes_errcode, State.withContext_errcode]

/-- A command that is not ignored and whose checks pass has its effect. -/
theorem exec_effect {i : Instr} {s : State} (h : s.err = false) (ho : operandErrorOf i = none)
    (hs : stateErrorOf s i = none) : exec i s = .next (effectOf s i) := by
  rw [exec_eq_command, ho, hs, command_runs _ _ h]

/-! ### Sequences of commands -/

@[simp] theorem runCommands_nil (s : State) : runCommands [] s = .next s := rfl

theorem runCommands_cons {i : Instr} {is : List Instr} {s t : State} (h : exec i s = .next t) :
    runCommands (i :: is) s = runCommands is t := by
  simp [runCommands, h]

end Sys2Proof.Machine
end

