-- ==== Sys2Proof/Laws/ChaCha20.lean ====
section
/-! SUPPORT. The data a `CXCRYPT` leaves, byte by byte (R128). -/

namespace Sys2Proof.Machine

open Sys2Proof

/-- After `n` blocks of `CXCRYPT len`, byte `k` is combined exactly when it lies in one of them and below `len`. -/
theorem cxcrypt_blocks_getElem (len n : Nat) (s : State) (k : Nat) (h : k < 256) :
    ((List.range n).foldl
      (fun data b => combine data (64 * b) ((chachaKeystream s b).take (min 64 (len - 64 * b)))) s.data)[k] =
      if k / 64 < n ∧ k < len then
        s.data[k] ^^^ (chachaKeystream s (k / 64))[k % 64]'(by simp [chachaKeystream, ser_length]; omega)
      else s.data[k] := by
  induction n with
  | zero => simp
  | succ n ih =>
    rw [List.range_succ, List.foldl_append, List.foldl_cons, List.foldl_nil, combine_getElem, ih]
    have hl : (chachaKeystream s n).length = 64 := ser_length _
    by_cases hb : k / 64 = n
    · subst hb
      have hoff : k - 64 * (k / 64) = k % 64 := by omega
      by_cases hk : k < len
      · rw [dif_pos (by simp only [List.length_take, hl]; omega), if_neg (by omega), if_pos ⟨by omega, hk⟩]
        simp [hoff]
      · rw [dif_neg (by simp only [List.length_take, hl]; omega), if_neg (by omega), if_neg (by omega)]
    · rw [dif_neg (by simp only [List.length_take, hl]; omega)]
      by_cases hn : k / 64 < n
      · simp only [hn, true_and, show k / 64 < n + 1 by omega]
      · simp only [hn, false_and, if_false, show ¬k / 64 < n + 1 by omega]

/-- `DATA` after a `CXCRYPT len` whose counters are in range: byte `k` below `len` is XORed with byte `k mod 64` of block `k / 64`. -/
theorem cxcryptData_getElem (len : Nat) (s : State) (k : Nat) (h : k < 256) :
    (cxcryptData len s)[k] =
      if k < len then
        s.data[k] ^^^ (chachaKeystream s (k / 64))[k % 64]'(by simp [chachaKeystream, ser_length]; omega)
      else s.data[k] := by
  rw [cxcryptData, cxcrypt_blocks_getElem]
  by_cases hk : k < len
  · rw [if_pos ⟨by unfold ceilDiv64; omega, hk⟩, if_pos hk]
  · rw [if_neg (by omega), if_neg hk]

/-- `DATA` after a `CXCRYPT len` whose counters pass the range: past `len` it is what it was (R45). -/
theorem freeData_getElem_of_le (len start : Nat) (data : Vector Byte 256) (k : Nat) (h : k < 256) (hk : len ≤ k) :
    (freeData len start data)[k] = data[k] := by
  simp [freeData, Nat.not_lt.mpr hk]

end Sys2Proof.Machine
end

