-- ==== Sys2Proof/Laws/Decode.lean ====
section
/-! SUPPORT. What each format's decoder accepts, the bounds of a field, and the encoded number of a well-formed command. -/

namespace Sys2Proof

theorem field_lt (w : Word) (hi lo : Nat) : field w hi lo < 2 ^ (hi + 1 - lo) :=
  Nat.mod_lt _ (Nat.two_pow_pos _)

theorem indexField_val (w : Word) (lo : Nat) : (indexField w lo).val = field w (lo + 3) lo := by
  have h : lo + 3 + 1 - lo = 4 := by omega
  simp [indexField, field, h]

theorem formatN_eq_ok (w : Word) (i j : Instr) : formatN w i = .ok j ↔ field w 23 0 = 0 ∧ i = j := by
  unfold formatN; split <;> simp_all

theorem formatQ_eq_ok (w : Word) (mk : Fin 16 → Fin 16 → Fin 16 → Fin 16 → Instr) (j : Instr) :
    formatQ w mk = .ok j ↔
      field w 23 16 = 0 ∧ mk (indexField w 12) (indexField w 8) (indexField w 4) (indexField w 0) = j := by
  unfold formatQ; split <;> simp_all

theorem formatL_eq_ok (w : Word) (mk : Nat → Instr) (j : Instr) :
    formatL w mk = .ok j ↔ field w 23 9 = 0 ∧ mk (field w 8 0) = j := by
  unfold formatL; split <;> simp_all

theorem formatC_eq_ok (w : Word) (mk : Nat → Nat → Instr) (j : Instr) :
    formatC w mk = .ok j ↔ field w 15 7 = 0 ∧ mk (field w 23 16) (field w 6 0) = j := by
  unfold formatC; split <;> simp_all

/-- The operands of a well-formed command fit below the opcode byte. -/
theorem operandBits_lt (i : Instr) (h : i.wf = true) : i.operandBits < 2 ^ 24 := by
  cases i <;> simp only [Instr.wf, Instr.operandBits, Bool.and_eq_true, decide_eq_true_eq] at h ⊢ <;> omega

theorem opcode_lt (i : Instr) : i.opcode < 2 ^ 8 := by cases i <;> simp [Instr.opcode]

/-- The number a well-formed command encodes to is not cut. -/
theorem encode_toNat (i : Instr) (h : i.wf = true) : (encode i).toNat = i.opcode * 2 ^ 24 + i.operandBits := by
  have h₁ := operandBits_lt i h
  have h₂ := opcode_lt i
  rw [encode, BitVec.toNat_ofNat]
  exact Nat.mod_eq_of_lt (by omega)

end Sys2Proof
end

