-- ==== Sys2Proof/Laws/PerInstr.lean ====
section
/-! SUPPORT. The per-instruction family `OpcodeField`: the opcode byte of an encoded command is the command's opcode (R91, R97). -/

namespace Sys2Proof.Laws.OpcodeField

open Sys2Proof

/-- Bits 31:24 of an encoded well-formed command are its opcode. -/
def Statement (i : Instr) : Prop := i.wf = true → field (encode i) 31 24 = i.opcode

/-- All commands share one argument: the operands stay below bit 24. -/
theorem of_bounds (i : Instr) : Statement i := by
  intro h
  have h₁ := operandBits_lt i h
  have h₂ := opcode_lt i
  simp only [field, encode_toNat i h]
  omega

theorem xcopy : Statement .xcopy := of_bounds _
theorem xadd : Statement .xadd := of_bounds _
theorem cinit : Statement .cinit := of_bounds _
theorem cqr (a b c d : Fin 16) : Statement (.cqr a b c d) := of_bounds _
theorem cdr : Statement .cdr := of_bounds _
theorem cblock : Statement .cblock := of_bounds _
theorem cxcrypt (len : Nat) : Statement (.cxcrypt len) := of_bounds _
theorem sqr (a b c d : Fin 16) : Statement (.sqr a b c d) := of_bounds _
theorem sdr : Statement .sdr := of_bounds _
theorem sblock : Statement .sblock := of_bounds _
theorem rksa (keylen : Nat) : Statement (.rksa keylen) := of_bounds _
theorem rnext : Statement .rnext := of_bounds _
theorem rxcrypt (len : Nat) : Statement (.rxcrypt len) := of_bounds _
theorem rdrop : Statement .rdrop := of_bounds _
theorem kxor (off len : Nat) : Statement (.kxor off len) := of_bounds _

end Sys2Proof.Laws.OpcodeField
end

