-- ==== Sys2Proof/Laws/Rc4.lean ====
section
/-! SUPPORT. Swaps, the key schedule and the PRGA keep a permutation a permutation (R40, R173); a run of PRGA steps. -/

namespace Sys2Proof.Machine

open Sys2Proof

theorem swapBytes_getElem (bytes : Vector Byte 256) (p q : Byte) (k : Nat) (h : k < 256) :
    (swapBytes bytes p q)[k] =
      if k = p.toNat then byteAt bytes q else if k = q.toNat then byteAt bytes p else bytes[k] := by
  simp only [swapBytes, byteAt, Vector.getElem_swap]

/-- The transposition of two positions, as a map of indices. -/
theorem swapBytes_isPermutation {bytes : Vector Byte 256} (h : IsPermutation bytes) (p q : Byte) :
    IsPermutation (swapBytes bytes p q) := by
  intro v
  obtain ⟨i, hi, hu⟩ := h v
  have hp : p.toNat < 256 := p.isLt
  have hq : q.toNat < 256 := q.isLt
  have key : ∀ j : Fin 256, (swapBytes bytes p q)[j] = bytes[Equiv.swap (⟨p.toNat, hp⟩ : Fin 256) ⟨q.toNat, hq⟩ j] := by
    intro j
    simp only [Fin.getElem_fin, swapBytes_getElem, byteAt, Equiv.swap_apply_def, Fin.ext_iff]
    split_ifs <;> rfl
  refine ⟨Equiv.swap ⟨p.toNat, hp⟩ ⟨q.toNat, hq⟩ i, ?_, ?_⟩
  · simp only [key, Equiv.swap_apply_self]
    exact hi
  · intro j hj
    simp only [key] at hj
    rw [← hu _ hj, Equiv.swap_apply_self]

theorem identityPerm_isPermutation : IsPermutation identityPerm := by
  intro v
  refine ⟨⟨v.toNat, v.isLt⟩, by simp [identityPerm], ?_⟩
  intro j hj
  have hlt := j.isLt
  have : (BitVec.ofNat 8 j.val).toNat = v.toNat := by rw [← hj]; simp [identityPerm]
  rw [BitVec.toNat_ofNat] at this
  ext
  simp only
  omega

theorem ksaSteps_isPermutation (rkey : Vector Byte 256) (keylen : Nat) (ns : List (Fin 256)) :
    ∀ sj : Vector Byte 256 × Byte, IsPermutation sj.1 → IsPermutation (ns.foldl (ksaStep rkey keylen) sj).1 := by
  induction ns with
  | nil => intro sj h; exact h
  | cons n ns ih => intro sj h; exact ih _ (swapBytes_isPermutation h _ _)

theorem keySchedule_isPermutation (rkey : Vector Byte 256) (keylen : Nat) : IsPermutation (keySchedule rkey keylen) :=
  ksaSteps_isPermutation rkey keylen _ _ identityPerm_isPermutation

theorem prgaStep_isPermutation (c : Rc4Context) (h : IsPermutation c.perm) : IsPermutation (prgaStep c).2.perm :=
  swapBytes_isPermutation h _ _

theorem prgaBytes_isPermutation (n : Nat) : ∀ c : Rc4Context, IsPermutation c.perm → IsPermutation (prgaBytes n c).2.perm := by
  induction n with
  | zero => intro c h; exact h
  | succ n ih => intro c h; exact ih _ (prgaStep_isPermutation c h)

@[simp] theorem prgaBytes_length (n : Nat) : ∀ c : Rc4Context, (prgaBytes n c).1.length = n := by
  induction n with
  | zero => intro c; rfl
  | succ n ih => intro c; simp [prgaBytes, ih]

/-- `m + n` keystream bytes are `m`, then `n` from the context the first left: the stream is resumable (R174, R175). -/
theorem prgaBytes_add (m n : Nat) : ∀ c : Rc4Context,
    prgaBytes (m + n) c =
      ((prgaBytes m c).1 ++ (prgaBytes n (prgaBytes m c).2).1, (prgaBytes n (prgaBytes m c).2).2) := by
  induction m with
  | zero => intro c; simp [prgaBytes]
  | succ m ih => intro c; rw [Nat.succ_add]; simp [prgaBytes, ih]

end Sys2Proof.Machine
end

