-- ==== Sys2Proof/Tests/Slice0.lean ====
section
/-! SUPPORT. Tests of the model on the spec's own vectors (spec/95_test_vectors.md, named `V…`), the smoke test of `Instr.wf`, and
for each statement that has hypotheses a witness that meets them. -/

-- One kernel check at a time: checked side by side, each test takes a thread with a stack of its own.
set_option Elab.async false

namespace Sys2Proof.Tests

open Sys2Proof Sys2Proof.Machine

/-! ### Small states -/

/-- A bank with the listed words from index 0 on, the rest 0. -/
def bankOf (words : List Word) : Bank :=
  (words.zipIdx.foldl (fun v p => v.setIfInBounds p.2 p.1) (Vector.replicate 16 0))

/-- A bank with the listed words at the listed indices, the rest 0. -/
def bankAt (words : List (Nat × Word)) : Bank :=
  words.foldl (fun v p => v.setIfInBounds p.1 p.2) (Vector.replicate 16 0)

/-- A byte array with the listed bytes at the listed indices, the rest 0. -/
def bytesAt {m : Nat} (bytes : List (Nat × Byte)) : Vector Byte m :=
  bytes.foldl (fun v p => v.setIfInBounds p.1 p.2) (Vector.replicate m 0)

/-- The bytes of a byte array at the listed indices. -/
def bytesOf {m : Nat} (v : Vector Byte m) (ks : List Nat) : List Nat := ks.map fun k => (v.toList.getD k 0).toNat

/-- Reset, then `X` as listed. -/
def withX (words : List (Nat × Word)) : State := { State.reset with x := bankAt words }

/-- Reset, then `ST` as listed. -/
def withST (words : List (Nat × Word)) : State := { State.reset with st := bankAt words }

/-- The set-up of V3: key bytes `00 .. 1f`, nonce `00 00 00 09 00 00 00 4a 00 00 00 00`, counter 1. -/
def keyed : State :=
  { State.reset with
    key := Vector.ofFn fun k => BitVec.ofNat 8 k.val
    nonce := bytesAt [(3, 0x09), (7, 0x4a)]
    ctr := 1 }

/-- The set-up of V5: as V3, with the nonce `00 00 00 00 00 00 00 4a 00 00 00 00`. -/
def keyed5 : State := { keyed with nonce := bytesAt [(7, 0x4a)] }

/-- The three bytes of `S` that the first PRGA step of V21 reads; the others are not those of V21. -/
def scheduled : State := { State.reset with perm := bytesAt [(1, 0x33), (51, 0x4e), (129, 0xeb)], rphase := .scheduled }

/-- A context in use whose `S` is the identity. -/
def streaming : State :=
  { keyed with perm := identityPerm, ri := 3, rj := 9, rphase := .streaming, ksb := 7, nbyte := 3, st := bankOf [1, 2, 3],
               x := bankOf [4, 5], data := bytesAt [(0, 0x50), (255, 0x80)], rkey := bytesAt [(0, 0x4b)] }

/-- Fault-stop after an `RC4_PHASE`. -/
def stopped : State := { keyed with err := true, errcode := .rc4Phase }

/-- What holds of the next state, false of another outcome. -/
def after (o : Result) (p : State → Bool) : Bool :=
  match o with
  | .next s => p s
  | _ => false

/-- `STATUS` after one step on a word written to `CMD`. -/
def statusAfter (s : State) (w : Word) : Nat :=
  match step (s.pushCommand w) with
  | .next t => (statusWord t).toNat
  | _ => 0xFFFFFFFF

/-- One access gets the response `r` and leaves `STATUS`, `NBLK` and word 0 of `ST` and `X`. -/
def answers (s : State) (a : HostAction) (r : Response) : Bool :=
  after (step { s with script := [a] }) fun t =>
    decide (t.responses = r :: s.responses ∧ statusWord t = statusWord s ∧ t.nblk = s.nblk ∧ t.st[0] = s.st[0] ∧ t.x[0] = s.x[0])

/-! ### WellFormed: each check refuses an ill-formed term -/

theorem test_wf_refuses_cxcrypt_512 : (Instr.cxcrypt 512).wf = false := by decide
theorem test_wf_refuses_rksa_512 : (Instr.rksa 512).wf = false := by decide
theorem test_wf_refuses_rxcrypt_512 : (Instr.rxcrypt 512).wf = false := by decide
theorem test_wf_refuses_kxor_offset_256 : (Instr.kxor 256 0).wf = false := by decide
theorem test_wf_refuses_kxor_length_128 : (Instr.kxor 0 128).wf = false := by decide
theorem test_wf_accepts_operand_errors : (Instr.cxcrypt 300).wf = true ∧ (Instr.kxor 0 127).wf = true := by decide

/-! ### Decode: words written out from the spec's encodings (V40, R101), and words that are no command (V41) -/

theorem test_decode_xcopy : decode 0x01000000 = .ok .xcopy := by decide
theorem test_decode_xadd : decode 0x02000000 = .ok .xadd := by decide
theorem test_decode_cinit : decode 0x10000000 = .ok .cinit := by decide
theorem test_decode_cqr : decode 0x1200fedc = .ok (.cqr 15 14 13 12) := by decide
theorem test_decode_cdr : decode 0x13000000 = .ok .cdr := by decide
theorem test_decode_cblock : decode 0x15000000 = .ok .cblock := by decide
theorem test_decode_cxcrypt : decode 0x16000100 = .ok (.cxcrypt 256) := by decide
theorem test_decode_sqr : decode 0x2200fcde = .ok (.sqr 15 12 13 14) := by decide
theorem test_decode_sdr : decode 0x23000000 = .ok .sdr := by decide
theorem test_decode_sblock : decode 0x25000000 = .ok .sblock := by decide
theorem test_decode_rksa : decode 0x300001ff = .ok (.rksa 511) := by decide
theorem test_decode_rnext : decode 0x31000000 = .ok .rnext := by decide
theorem test_decode_rxcrypt : decode 0x32000009 = .ok (.rxcrypt 9) := by decide
theorem test_decode_rdrop : decode 0x33000000 = .ok .rdrop := by decide
theorem test_decode_kxor : decode 0x40ff0001 = .ok (.kxor 255 1) := by decide

/-- V41, unused opcodes. -/
theorem test_decode_refuses_opcodes :
    ([0x00000000, 0xffffffff, 0x03000000, 0x11000000, 0x14000000, 0x20000000, 0x21000000, 0x24000000, 0x26000000, 0x34000000,
      0x41000000, 0x80000000].all fun w => decide (decode w = .error .unknownOpcode)) = true := by decide +kernel

/-- V41, a must-be-zero bit set. -/
theorem test_decode_refuses_reserved_bits :
    ([0x01000001, 0x13000001, 0x15800000, 0x12010123, 0x22800123, 0x16000200, 0x30000200, 0x32010009, 0x40000080,
      0x40008000].all fun w => decide (decode w = .error .reservedBits)) = true := by decide +kernel

/-- R102: the words of the pseudo-instructions. -/
theorem test_encode_pseudo :
    ccols.map encode = [0x1200048c, 0x1200159d, 0x120026ae, 0x120037bf] ∧
    cdiags.map encode = [0x120005af, 0x120016bc, 0x1200278d, 0x1200349e] ∧
    scols.map encode = [0x2200048c, 0x220059d1, 0x2200ae26, 0x2200f37b] ∧
    srows.map encode = [0x22000123, 0x22005674, 0x2200ab89, 0x2200fcde] := by decide

/-- The table rows overlap nowhere. -/
theorem test_table_rows_disjoint : opcodeTable.Pairwise (fun r q => r.matchBits &&& (r.mask &&& q.mask) ≠ q.matchBits &&& (r.mask &&& q.mask)) := by
  decide

/-! ### Commands -/

/-- R12. -/
theorem test_rotl32 : rotl32 0x80000000 1 = 0x00000001 ∧ rotl32 0x00080800 7 = 0x04040000 ∧ rotl32 0x12345678 16 = 0x56781234 := by
  decide

/-- V8. -/
theorem test_xcopy : after (execXcopy (withST [(0, 100), (15, 115)])) (fun t => decide (t.x[0] = 100 ∧ t.x[15] = 115 ∧ t.x[1] = 0)) = true := by
  decide +kernel

/-- V8: the sums wrap and set no flag. -/
theorem test_xadd_wraps :
    after (execXadd { withX [(0, 0x80000000), (1, 1), (5, 3)] with st := bankAt [(0, 0x80000000), (1, 0xffffffff), (5, 0xfffffffe)] })
      (fun t => decide (t.x[0] = 0 ∧ t.x[1] = 0 ∧ t.x[5] = 1 ∧ statusWord t = 0)) = true := by decide +kernel

/-- R127's example, the set-up of V3. -/
theorem test_cinit :
    after (execCinit keyed) (fun t => decide (t.st.toList = [0x61707865, 0x3320646e, 0x79622d32, 0x6b206574,
      0x03020100, 0x07060504, 0x0b0a0908, 0x0f0e0d0c, 0x13121110, 0x17161514, 0x1b1a1918, 0x1f1e1d1c,
      0x00000001, 0x09000000, 0x4a000000, 0x00000000] ∧ t.nblk = 0)) = true := by decide +kernel

/-- V2, high indices. -/
theorem test_cqr :
    after (execCqr 15 14 13 12 (withX [(12, 0x01234567), (13, 0x9b8d6f43), (14, 0x01020304), (15, 0x11111111)]))
      (fun t => decide (t.x.toList = [0, 0, 0, 0, 0, 0, 0, 0, 0, 0, 0, 0, 0x5881c4bb, 0x4581472e, 0xcb1cf8ce, 0xea2a92f4])) = true := by
  decide +kernel

/-- V50. -/
theorem test_cqr_alias : after (execCqr 0 4 4 8 State.reset) (fun t => decide (statusWord t = 0x21)) = true := by decide +kernel

/-- V3, the first double round. -/
theorem test_cdr :
    after (execCdr (withX [(0, 0x61707865), (1, 0x3320646e), (2, 0x79622d32), (3, 0x6b206574), (4, 0x03020100), (5, 0x07060504),
        (6, 0x0b0a0908), (7, 0x0f0e0d0c), (8, 0x13121110), (9, 0x17161514), (10, 0x1b1a1918), (11, 0x1f1e1d1c), (12, 1),
        (13, 0x09000000), (14, 0x4a000000)]))
      (fun t => decide (t.x.toList = [0xcd52e917, 0x85ab03b4, 0xb3457395, 0xf96de7dd, 0xc4b7cd22, 0x5c2e187a, 0xc95eb461,
        0x316c801a, 0x7bf7d740, 0x7eddd644, 0xf1a1bdf5, 0x761246ca, 0x6b0d58a3, 0x6798471a, 0xd737f167, 0xf173888d])) = true := by
  decide +kernel

/-- V3, the block. -/
theorem test_cblock :
    after (execCblock { keyed with st := chachaInit keyed.key keyed.nonce keyed.ctr })
      (fun t => decide (t.x.toList = [0xe4e7f110, 0x15593bd1, 0x1fdd0f50, 0xc47120a3, 0xc7f4d1c7, 0x0368c033, 0x9aaa2204,
        0x4e6cd4c3, 0x466482d2, 0x09aa9f07, 0x05d7c214, 0xa2028bd9, 0xd19c12b5, 0xb94e16de, 0xe883d0cb, 0x4e3c50a2] ∧
        t.nblk = 1)) = true := by decide +kernel

/-- R128's example, V5. -/
theorem test_cxcrypt :
    after (execCxcrypt 4 keyed5)
      (fun t => decide (bytesOf t.data [0, 1, 2, 3, 4] = [0x22, 0x4f, 0x51, 0xf3, 0x00] ∧ t.nblk = 1 ∧ t.ctr = 1)) = true := by
  decide +kernel

/-- V9: past the counter range `ERR` stays 0, `NBLK` becomes 2, and no byte past `len` changes. -/
theorem test_cxcrypt_past_the_range :
    after (execCxcrypt 65 { keyed5 with ctr := 0xffffffff, data := bytesAt [(65, 0x5a)] })
      (fun t => decide (t.err = false ∧ t.nblk = 2 ∧ bytesOf t.data [65] = [0x5a])) = true := by decide +kernel

/-- V10. -/
theorem test_sqr :
    after (execSqr 0 4 8 12 (withX [(0, 1)]))
      (fun t => decide (t.x.toList = [0x08008145, 0, 0, 0, 0x00000080, 0, 0, 0, 0x00010200, 0, 0, 0, 0x20500000, 0, 0, 0])) = true := by
  decide +kernel

/-- V50. -/
theorem test_sqr_alias : after (execSqr 3 2 1 3 State.reset) (fun t => decide (statusWord t = 0x21)) = true := by decide +kernel

/-- V12. -/
theorem test_sdr :
    after (execSdr (withX [(0, 1)]))
      (fun t => decide (t.x.toList = [0x8186a22d, 0x0040a284, 0x82479210, 0x06929051, 0x08000090, 0x02402200, 0x00004000,
        0x00800000, 0x00010200, 0x20400000, 0x08008104, 0x00000000, 0x20500000, 0xa0000040, 0x0008180a, 0x612a8020])) = true := by
  decide +kernel

/-- V13. -/
theorem test_sblock :
    after (execSblock (withST [(0, 1)]))
      (fun t => decide (t.x.toList = [0x1cd2c5b6, 0x12e00046, 0x30c96673, 0x0cf7b89c, 0x01c1035c, 0xcfe87193, 0xf0bc08ac,
        0x8fbf36eb, 0x1f424d57, 0x48054223, 0xf92f5c52, 0x973f4fc7, 0xd3b4c91b, 0x55e794b5, 0x154e3d69, 0x16f5a6a3] ∧
        t.nblk = 1)) = true := by decide +kernel

/-- V20: with the key "Key" the first four iterations give `j` = 75, 177, 44, 122. -/
theorem test_rksa_first_iterations :
    (List.finRange 4).map (fun n : Fin 4 =>
      (((List.finRange 256).take (n.val + 1)).foldl (ksaStep (bytesAt [(0, 0x4b), (1, 0x65), (2, 0x79)]) 3) (identityPerm, 0)).2) =
      [75, 177, 44, 122] := by decide +kernel

/-- V51: `RKSA 0` in phase `SCHEDULED` reports `RC4_KEYLEN`. -/
theorem test_rksa_priority : statusAfter scheduled 0x30000000 = 0x141 ∧ statusAfter scheduled 0x30000001 = 0x151 := by decide +kernel

/-- V21, the first step. -/
theorem test_rnext :
    after (execRnext scheduled) (fun t => decide (t.ksb = 0xeb ∧ rcurWord t = 0x3301 ∧ bytesOf t.perm [1, 51] = [0x4e, 0x33] ∧
      t.nbyte = 1 ∧ statusWord t = 0x200)) = true := by decide +kernel

/-- V50. -/
theorem test_rnext_without_context : statusAfter State.reset 0x31000000 = 0x51 := by decide +kernel

/-- V22, the first byte: `KSB` is not written. -/
theorem test_rxcrypt :
    after (execRxcrypt 1 { scheduled with data := bytesAt [(0, 0x50), (1, 0x6c)] })
      (fun t => decide (bytesOf t.data [0, 1] = [0xbb, 0x6c] ∧ t.ksb = 0 ∧ rcurWord t = 0x3301 ∧ t.nbyte = 1)) = true := by
  decide +kernel

/-- V25: `RXCRYPT 0` keeps the phase, and without a context it raises. -/
theorem test_rxcrypt_zero :
    after (execRxcrypt 0 scheduled) (fun t => decide (t.rphase = .scheduled ∧ t.nbyte = 0 ∧ t.ri = 0)) = true ∧ statusAfter State.reset 0x32000000 = 0x51 := by
  decide +kernel

/-- R176's example: `RKEY` and `DATA` stay. -/
theorem test_rdrop :
    after (execRdrop streaming) (fun t => decide (bytesOf t.perm [0, 1, 255] = [0, 0, 0] ∧ t.ksb = 0 ∧ rcurWord t = 0 ∧ statusWord t = 0 ∧
      bytesOf t.rkey [0] = [0x4b] ∧ bytesOf t.data [0] = [0x50] ∧ t.nbyte = 3)) = true := by decide +kernel

/-- V31, on the two words of the block it uses. -/
theorem test_kxor :
    after (execKxor 4 8 { withX [(0, 0x1cd2c5b6), (1, 0x12e00046)] with
        data := bytesAt [(4, 0xff), (5, 0xff), (6, 0xff), (7, 0xff), (8, 0xff), (9, 0xff), (10, 0xff), (11, 0xff)] })
      (fun t => decide (bytesOf t.data [3, 4, 5, 6, 7, 8, 9, 10, 11, 12] =
        [0x00, 0x49, 0x3a, 0x2d, 0xe3, 0xb9, 0xff, 0x1f, 0xed, 0x00])) = true := by decide +kernel

/-- V50, V41. -/
theorem test_kxor_range :
    statusAfter State.reset 0x40c80040 = 0x31 ∧ statusAfter State.reset 0x40000041 = 0x31 ∧ statusAfter State.reset 0x4000007f = 0x31 := by
  decide +kernel

/-! ### Errors, fault-stop, the port -/

/-- V50, V51: lengths, phases, priority, an ignored word. -/
theorem test_errors :
    statusAfter State.reset 0x16000101 = 0x31 ∧ statusAfter State.reset 0x30000101 = 0x41 ∧
    statusAfter State.reset 0x3200012c = 0x31 ∧ statusAfter scheduled 0x30000200 = 0x111 ∧
    statusAfter State.reset 0x12010000 = 0x11 ∧ statusAfter stopped 0x00000000 = 0x51 := by decide +kernel

/-- V52: the port works while `ERR = 1`, commands do not. -/
theorem test_fault_stop :
    after (step { stopped with script := [wr 0x080 1] }) (fun t => decide (t.st[0] = 1 ∧ t.err = true)) = true ∧
    answers stopped (cmd .cblock) .ok = true := by decide +kernel

/-- V52, V70: soft reset. -/
theorem test_soft_reset :
    answers streaming (wr 0x008 0xfffffffe) .ok = true ∧
    after (step { stopped with script := [wr 0x008 0xffffffff] }) (fun t => decide (statusWord t = 0 ∧ t.ctr = 0 ∧ bytesOf t.key [1] = [0] ∧ t.responses = [.ok])) = true := by
  decide +kernel

/-- V60. -/
theorem test_byte_packing :
    after (step { State.reset with script := [wr 0x2fc 0x80000001] }) (fun t => decide (bytesOf t.data [251, 252, 253, 254, 255] = [0, 1, 0, 0, 0x80])) = true ∧
    after (step { State.reset with script := [wr 0x048 0xddccbbaa] })
      (fun t => decide (bytesOf t.nonce [7, 8, 9, 10, 11] = [0, 0xaa, 0xbb, 0xcc, 0xdd])) = true ∧
    after (step { State.reset with script := [wr 0x0bc 0xdeadbeef] }) (fun t => decide (t.st[15] = 0xdeadbeef)) = true := by
  decide +kernel

/-- V61. -/
theorem test_port_refusals :
    ([rd 0x002, rd 0x201, wr 0x0c2 5, rd 0x04c, rd 0x07c, wr 0x050 5, rd 0x400, rd 0xffc, wr 0x400 5, wr 0x004 5, wr 0x010 5,
      wr 0x014 5, wr 0x018 5, wr 0x01c 5, wr 0x300 5, wr 0x3fc 5, .memRead 0x000 .half, .memWrite 0x200 .byte 5].all
        fun a => answers keyed a .busErr) = true := by decide +kernel

/-- V61, R37, R39. -/
theorem test_port_reads :
    answers streaming (rd 0x000) (.value 0) = true ∧ answers streaming (rd 0x008) (.value 0) = true ∧
    answers streaming (rd 0x004) (.value 0x200) = true ∧ answers streaming (rd 0x01c) (.value 0x0903) = true ∧
    answers streaming (rd 0x020) (.value 0x03020100) = true ∧ answers streaming (rd 0x3fc) (.value 0xfffefdfc) = true := by
  decide +kernel

/-- R103: `WRB` pads the last word. -/
theorem test_wrb : wrb 0x100 [0x4b, 0x65, 0x79, 0x01, 0x02] = [wr 0x100 0x0179654b, wr 0x104 0x00000002] := by decide

/-- A word placed as the next command runs from reset (V8's words). -/
theorem test_withFetchWord :
    after (step (State.reset.withFetchWord 32 0x10000000)) (fun t => decide (t.st[0] = 0x61707865 ∧ t.script = [])) = true := by
  decide +kernel

/-! ### Witnesses: the hypotheses of each statement can be met -/

theorem streaming_inv : streaming.Inv where
  errAgrees := by decide
  permutation := fun _ => identityPerm_isPermutation
  fresh := fun h => nomatch h
  notStreaming := fun h => absurd rfl h

theorem witness_DecodeOfEncodedCommand :
    (Instr.cxcrypt 511).wf = true ∧ (Instr.rksa 511).wf = true ∧ (Instr.rxcrypt 511).wf = true ∧ (Instr.kxor 255 127).wf = true ∧
    (Instr.cqr 15 15 15 15).wf = true ∧ (Instr.rdrop).wf = true := by decide
theorem witness_EncodeOfDecodedWord : decode 0x40ff007f = .ok (.kxor 255 127) := by decide
theorem witness_WordMatchesRowIffItDecodesToIt :
    ∃ r ∈ opcodeTable, ∃ w : Word, w &&& r.mask = r.matchBits ∧ ∃ i, decode w = .ok i ∧ i.mnemonic = r.mnemonic :=
  ⟨⟨0x40, "KXOR", 0x40000000, 0xFF00FF80⟩, by decide, 0x40ff0001, by decide, .kxor 255 1, by decide, by decide⟩
theorem witness_UnmatchedWordRaisesIllegalCmd :
    streaming.err = false ∧ ∀ r ∈ opcodeTable, (0x16000200 : Word) &&& r.mask ≠ r.matchBits := by decide
theorem witness_StepRunsTheDecodedCommand :
    decode 0x16000072 = .ok (.cxcrypt 114) ∧ decodeTableWord 32 0x16000072 = some (.cxcrypt 114) := by decide
theorem witness_NoActionChangesNothing : streaming.script = [] := by decide
theorem witness_BothResetsGiveTheResetValues : (0xffffffff : Word).getLsbD 0 = true := by decide
theorem witness_CtrlWriteResetsExactlyOnBitZero :
    (0x00000001 : Word).getLsbD 0 = true ∧ (0xfffffffe : Word).getLsbD 0 = false := by decide
theorem witness_EveryStepKeepsTheInvariant :
    ∃ s t : State, s.Inv ∧ step s = .next t ∧ t.rphase = .streaming ∧ t.ri = 4 :=
  ⟨{ streaming with script := [cmd .rnext] }, _,
    ⟨streaming_inv.errAgrees, streaming_inv.permutation, streaming_inv.fresh, streaming_inv.notStreaming⟩, rfl, rfl, by decide +kernel⟩
theorem witness_CommandsAreIgnoredWhileErrIsSet : stopped.err = true := by decide
theorem witness_ErrorsAreTheTableInItsOrder :
    scheduled.err = false ∧
    Spec.errorOf (.cqr 0 4 4 8) .uninit = some .qrAlias ∧ Spec.errorOf (.cqr 0 4 8 12) .uninit = none ∧
    Spec.errorOf (.cxcrypt 257) .uninit = some .lenRange ∧ Spec.errorOf (.cxcrypt 256) .uninit = none ∧
    Spec.errorOf (.kxor 192 64) .uninit = none ∧ Spec.errorOf (.kxor 193 64) .uninit = some .lenRange ∧
    Spec.errorOf (.kxor 0 65) .uninit = some .lenRange ∧ Spec.errorOf (.kxor 255 1) .uninit = none ∧
    Spec.errorOf (.rksa 0) .scheduled = some .rc4Keylen ∧ Spec.errorOf (.rksa 1) .scheduled = some .rc4Phase ∧
    Spec.errorOf (.rksa 256) .uninit = none ∧ Spec.errorOf (.rksa 257) .uninit = some .rc4Keylen ∧
    Spec.errorOf .rnext .uninit = some .rc4Phase ∧ Spec.errorOf .rnext .streaming = none ∧
    Spec.errorOf (.rxcrypt 257) .uninit = some .lenRange ∧ Spec.errorOf (.rxcrypt 0) .uninit = some .rc4Phase ∧
    Spec.errorOf (.rxcrypt 256) .scheduled = none := by decide
theorem witness_RaisingChangesOnlyTheErrorFlags :
    ∃ t, keyed.err = false ∧ step { keyed with script := .memWrite 0x000 .word 0x30000000 :: [.reset] } = .next t ∧ t.err = true :=
  ⟨_, rfl, rfl, by decide +kernel⟩
theorem witness_OnlyResetClearsErr :
    ∃ t, stopped.err = true ∧ step { stopped with script := [wr 0x008 3] } = .next t ∧ t.err = false :=
  ⟨_, rfl, rfl, by decide +kernel⟩
theorem witness_CallerOwnedStateIsNeverWritten :
    (∃ t, exec .sblock streaming = .next t) ∧
    ∃ t, step { keyed with script := [wr 0x03c 5] } = .next t ∧ t.key ≠ keyed.key :=
  ⟨⟨_, rfl⟩, _, rfl, by decide +kernel⟩
theorem witness_CommandsTouchOnlyTheirRow : ∃ t, exec .rnext streaming = .next t := ⟨_, rfl⟩
theorem witness_CountersAdvanceByTheTable :
    (∃ t, exec .rnext streaming = .next t ∧ streaming.err = false ∧ t.err = false) ∧
    (∃ t, exec .rnext keyed = .next t ∧ t.err = true) ∧ (∃ t, exec .rnext stopped = .next t ∧ stopped.err = true) ∧
    ∃ t, step { streaming with script := [.reset] } = .next t ∧ ∀ w rest, [HostAction.reset] ≠ .memWrite 0x000 .word w :: rest :=
  ⟨⟨_, rfl, by decide +kernel, by decide +kernel⟩, ⟨_, rfl, by decide +kernel⟩, ⟨_, rfl, by decide +kernel⟩, _, rfl,
    fun _ _ h => by simp at h⟩
theorem witness_RotationFollowsTheFormula : (1 ≤ 1 ∧ 1 ≤ 31) ∧ (1 ≤ 31 ∧ 31 ≤ 31) := by decide

/-- `s.err = false` is the one hypothesis of `XcopyCopiesTheBank`, `XaddAddsWordForWord`, `CinitBuildsTheInitialState`,
`CdrIsColumnsThenDiagonals`, `CblockComputesTheBlock`, `BlockIsCopyTenDoubleRoundsAdd`, `SdrIsColumnsThenRows` and
`SblockComputesTheBlock`. -/
theorem witness_no_error : streaming.err = false := by decide

/-- `CqrAppliesTheQuarterRound` and `SqrAppliesTheQuarterRound`, both clauses. -/
theorem witness_QuarterRounds :
    streaming.err = false ∧ ¬[(0 : Fin 16), 4, 4, 8].Nodup ∧ ¬[(15 : Fin 16), 2, 1, 15].Nodup ∧ [(15 : Fin 16), 14, 0, 12].Nodup := by
  decide
theorem witness_CxcryptXorsTheKeystream :
    keyed.err = false ∧ 256 < 257 ∧ Spec.counterFits 0xfffffffc 256 ∧ Spec.counterFits 0xffffffff 64 ∧
    Spec.counterFits 0xffffffff 0 ∧ Spec.counterFits keyed.ctr 256 := by
  unfold Spec.counterFits; decide
theorem witness_CxcryptPastTheCounterRangeRuns :
    keyed.err = false ∧ ¬Spec.counterFits 0xffffffff 65 ∧ ¬Spec.counterFits 0xfffffffd 256 := by
  unfold Spec.counterFits; decide
/-- `CxcryptTwiceRestoresTheData` and `HostScriptOfBlocksIsCxcrypt`. -/
theorem witness_cxcrypt_in_range : keyed.err = false ∧ 256 ≤ 256 ∧ Spec.counterFits 0xfffffffc 256 ∧ Spec.counterFits keyed.ctr 200 := by
  unfold Spec.counterFits; decide
theorem witness_CinitCblockKxorIsCxcrypt : keyed.err = false ∧ 64 ≤ 64 := by decide
theorem witness_ZeroStateGivesTheZeroBlock : keyed.err = false ∧ ∀ n : Fin 16, keyed.st[n] = 0 := by decide
theorem witness_RksaSchedulesTheKey :
    keyed.err = false ∧ keyed.rphase = .uninit ∧ scheduled.err = false ∧ scheduled.rphase ≠ .uninit ∧
    (0 = 0 ∨ 256 < 0) ∧ (257 = 0 ∨ 256 < 257) ∧ (1 ≤ 1 ∧ 1 ≤ 256) ∧ (1 ≤ 256 ∧ 256 ≤ 256) := by decide
/-- Two key buffers that agree below `keylen` and differ at `keylen`. -/
theorem witness_RksaReadsOnlyTheKeyBytes :
    let s : State := { keyed with rkey := bytesAt [(0, 0x4b), (1, 0x65), (2, 0x79)] }
    let s' : State := { keyed with rkey := bytesAt [(0, 0x4b), (1, 0x65), (2, 0x79), (3, 0x77)] }
    s.err = false ∧ s'.err = false ∧ s.rphase = .uninit ∧ s'.rphase = .uninit ∧ s.rkey ≠ s'.rkey ∧
    ∀ k, k < 3 → Spec.bytes s.rkey k = Spec.bytes s'.rkey k := by decide +kernel
theorem witness_RnextIsOnePrgaStep :
    keyed.err = false ∧ keyed.rphase = .uninit ∧ streaming.err = false ∧ streaming.rphase ≠ .uninit := by decide
theorem witness_RxcryptUsesTheNextKeystreamBytes :
    keyed.err = false ∧ keyed.rphase = .uninit ∧ scheduled.err = false ∧ scheduled.rphase ≠ .uninit ∧
    streaming.rphase ≠ .uninit ∧ 256 < 257 ∧ 256 ≤ 256 ∧ 0 ≤ 256 := by decide
theorem witness_RdropDiscardsTheContext :
    streaming.err = false ∧ ∃ s : State, s.err = false ∧ s.Inv ∧ s.rphase = .uninit :=
  ⟨by decide, keyed, by decide, ⟨by decide, fun h => absurd rfl h, fun _ => rfl, fun _ => ⟨rfl, rfl, rfl⟩⟩, by decide⟩
theorem witness_PhasesFollowTheTable :
    keyed.err = false ∧ keyed.rphase = .uninit ∧ scheduled.err = false ∧ scheduled.rphase ≠ .uninit ∧ 256 ≤ 256 ∧
    (∃ t, exec .rnext streaming = .next t) ∧ streaming.rphase = .streaming :=
  ⟨by decide, by decide, by decide, by decide, by decide, ⟨_, rfl⟩, by decide⟩
theorem witness_Rc4SessionRoundTrip :
    keyed.err = false ∧ keyed.rphase = .uninit ∧ 1 ≤ 256 ∧ 256 ≤ 256 := by decide
theorem witness_KxorCombinesTheBlock :
    streaming.err = false ∧ (64 < 65 ∨ 256 < 0 + 65) ∧ (64 < 64 ∨ 256 < 193 + 64) ∧ (64 ≤ 64 ∧ 192 < 256 ∧ 192 + 64 ≤ 256) ∧
    (1 ≤ 64 ∧ 255 < 256 ∧ 255 + 1 ≤ 256) ∧ (0 ≤ 64 ∧ 256 + 0 ≤ 256) := by decide
theorem witness_KxorTwiceRestoresTheData : streaming.err = false ∧ 64 ≤ 64 ∧ 192 + 64 ≤ 256 := by decide
theorem witness_WordEngineAndRc4Commute :
    ∃ t u, Spec.wordEngine .xadd = true ∧ Spec.rc4Command (.rxcrypt 2) = true ∧ streaming.err = false ∧
      exec .xadd streaming = .next t ∧ t.err = false ∧ exec (.rxcrypt 2) streaming = .next u ∧ u.err = false :=
  ⟨_, _, by decide, by decide, by decide, rfl, by decide +kernel, rfl, by decide +kernel⟩
/-- `RefusedAccessesAnswerBusErr`, each alternative at its ends. -/
theorem witness_RefusedAccessesAnswerBusErr :
    Width.byte ≠ .word ∧ Width.half ≠ .word ∧ (0x003 : Addr).toNat % 4 ≠ 0 ∧ 0x04C ≤ (0x04C : Addr).toNat ∧
    (0x07C : Addr).toNat ≤ 0x07F ∧ 0x400 ≤ (0x400 : Addr).toNat ∧ 0x400 ≤ (0xFFC : Addr).toNat ∧ (0x004 : Addr).toNat = 0x004 ∧
    0x010 ≤ (0x010 : Addr).toNat ∧ (0x01C : Addr).toNat ≤ 0x01F ∧ 0x300 ≤ (0x300 : Addr).toNat ∧ (0x3FC : Addr).toNat ≤ 0x3FF := by
  decide
theorem witness_WritesLandInTheAddressedRegister :
    Spec.storing .ctr = true ∧ Spec.storing (.key 7) = true ∧ Spec.storing (.nonce 2) = true ∧ Spec.storing (.st 0) = true ∧
    Spec.storing (.x 15) = true ∧ Spec.storing (.rkey 63) = true ∧ Spec.storing (.data 63) = true := by decide

end Sys2Proof.Tests
end

section
/-! Rotation (R12): its value on plain numbers and where it moves each bit. -/

namespace Sys2Proof.Machine

open Sys2Proof

/-- The two summands of R12's formula occupy disjoint bits: the first is a multiple of `2 ^ n`, the second is below it.
So the disjunction that `rotateLeft` forms is their sum. -/
theorem toNat_rotl32 (v : Word) {n : Nat} (hn : n < 32) : (rotl32 v n).toNat = Spec.rotl v.toNat n := by
  have hpow : 2 ^ (32 - n) * 2 ^ n = 2 ^ 32 := by rw [← pow_add, Nat.sub_add_cancel hn.le]
  have hhigh : v.toNat * 2 ^ n % 2 ^ 32 = 2 ^ n * (v.toNat % 2 ^ (32 - n)) := by
    rw [← hpow, Nat.mul_mod_mul_right, Nat.mul_comm]
  have hlow : v.toNat / 2 ^ (32 - n) < 2 ^ n := Nat.div_lt_of_lt_mul (hpow ▸ v.isLt)
  rw [rotl32, BitVec.toNat_rotateLeft, Nat.mod_eq_of_lt hn, Nat.shiftLeft_eq, Nat.shiftRight_eq_div_pow, hhigh,
    ← Nat.two_pow_add_eq_or_of_lt hlow, Spec.rotl, hhigh]

/-- A bit either moves up by `n`, or passes the top and comes back `32 - n` lower. -/
theorem getLsbD_rotl32 (v : Word) {n i : Nat} (hn : n < 32) (hi : i < 32) :
    (rotl32 v n).getLsbD ((i + n) % 32) = v.getLsbD i := by
  rw [rotl32, BitVec.getLsbD_rotateLeft_of_le hn]
  rcases Nat.lt_or_ge (i + n) 32 with hstay | hwrap
  · have hpos : (i + n) % 32 = i + n := Nat.mod_eq_of_lt hstay
    simp [hpos, hstay]
  · have hpos : (i + n) % 32 = i + n - 32 := by omega
    have hbelow : i + n - 32 < n := by omega
    have hsource : 32 - n + (i + n - 32) = i := by omega
    simp [hpos, hbelow, hsource]

/-- Settles O20: the value of a rotation and the place of its bits, each by its own lemma. -/
theorem rotationFollowsTheFormula : Obligations.RotationFollowsTheFormula := by
  intro v n _ hn
  have hlt : n < 32 := Nat.lt_succ_of_le hn
  exact ⟨toNat_rotl32 v hlt, fun _ hi => getLsbD_rotl32 v hlt hi⟩

end Sys2Proof.Machine
end

section
/-! What a step can do: one host action, and below it one port access or one command (R20, R36, R65, R100). -/

namespace Sys2Proof.Machine

open Sys2Proof

/-! ### One host action -/

theorem step_of_script_nil {s : State} (h : s.script = []) : step s = .next s := by
  simp [step, runNext, h]

theorem step_of_script_cons {s : State} {a : HostAction} {rest : List HostAction} (h : s.script = a :: rest) :
    step s = perform a { s with script := rest } := by
  simp [step, runNext, h]

theorem step_cons (s : State) (a : HostAction) (rest : List HostAction) :
    step { s with script := a :: rest } = perform a { s with script := rest } := rfl

@[simp] theorem perform_reset (s : State) : perform .reset s = .next s.resetCore := rfl

@[simp] theorem perform_memRead (a : Addr) (width : Width) (s : State) :
    perform (.memRead a width) s = .next (s.respond (readResponse a width s)) := rfl

@[simp] theorem perform_memWrite (a : Addr) (width : Width) (v : Word) (s : State) :
    perform (.memWrite a width v) s = memWrite a width v s := rfl

/-! ### One write -/

theorem memWrite_of_target {a : Addr} {width : Width} {r : Reg} (h : target a width = some r) (v : Word) (s : State) :
    memWrite a width v s = writeReg v s r := by
  simp [memWrite, h]

theorem memWrite_of_no_target {a : Addr} {width : Width} (h : target a width = none) (v : Word) (s : State) :
    memWrite a width v s = .next (s.respond .busErr) := by
  simp [memWrite, h]

theorem memWrite_cmd (w : Word) (s : State) : memWrite 0x000 .word w s = answered .ok (executeWord w s) := rfl

theorem memWrite_ctrl (v : Word) (s : State) :
    memWrite 0x008 .word v s = .next ((writeCtrl v s).respond .ok) := rfl

theorem writeCtrl_of_bit_set {v : Word} (h : v.getLsbD 0 = true) (s : State) : writeCtrl v s = s.resetCore := by
  simp [writeCtrl, h]

theorem writeCtrl_of_bit_clear {v : Word} (h : v.getLsbD 0 = false) (s : State) : writeCtrl v s = s := by
  rw [writeCtrl, h, if_neg (by decide)]

theorem answered_eq_next {r : Response} {o : Result} {t : State} :
    answered r o = .next t ↔ ∃ u, o = .next u ∧ u.respond r = t := by
  cases o <;> simp [answered]

/-! ### One command word -/

theorem executeWord_of_decode {w : Word} {i : Instr} (h : decode w = .ok i) (s : State) :
    executeWord w s = exec i s := by
  simp [executeWord, h]

theorem executeWord_of_decode_error {w : Word} {e : DecodeError} (h : decode w = .error e) (s : State) :
    executeWord w s = command (some .illegalCmd) none id s := by
  simp [executeWord, h]

/-- Everything a word written to `CMD` can do: it runs as the command it encodes, or, encoding none, it is ignored or raises
`ILLEGAL_CMD`. -/
theorem executeWord_cases {w : Word} {s t : State} (h : executeWord w s = .next t) :
    (∃ i, decode w = .ok i ∧ exec i s = .next t) ∨
    (∃ e, decode w = .error e ∧ s.err = true ∧ t = s) ∨
    (∃ e, decode w = .error e ∧ s.err = false ∧ t = s.raise .illegalCmd) := by
  cases hw : decode w with
  | ok i => exact .inl ⟨i, rfl, executeWord_of_decode hw s ▸ h⟩
  | error e =>
    rw [executeWord_of_decode_error hw] at h
    rcases command_cases _ _ _ _ h with ⟨herr, ht⟩ | ⟨herr, code, hcode, ht⟩ | ⟨_, hnone, _⟩
    · exact .inr (.inl ⟨e, rfl, herr, ht⟩)
    · cases hcode
      exact .inr (.inr ⟨e, rfl, herr, ht⟩)
    · cases hnone

theorem decodeTableWord_eq_some {nbits w : Nat} {i : Instr} :
    decodeTableWord nbits w = some i ↔ decode (tableWord nbits w) = .ok i := by
  unfold decodeTableWord
  cases decode (tableWord nbits w) <;> simp

theorem step_withFetchWord (s : State) (nbits w : Nat) :
    step (s.withFetchWord nbits w) = answered .ok (executeWord (tableWord nbits w) s) := rfl

/-- Settles O6: both clauses write the word to `CMD`, where the decoded command is executed and its outcome answered. -/
theorem stepRunsTheDecodedCommand : Obligations.StepRunsTheDecodedCommand := by
  refine ⟨fun s w rest i hw => ?_, fun s nbits w i hw => ?_⟩
  · rw [step_cons, perform_memWrite, memWrite_cmd, executeWord_of_decode hw]
    cases exec i { s with script := rest } <;> rfl
  · rw [step_withFetchWord, executeWord_of_decode (decodeTableWord_eq_some.mp hw)]
    cases exec i s <;> rfl

/-- Settles O8: an empty script makes the step idle. -/
theorem noActionChangesNothing : Obligations.NoActionChangesNothing :=
  fun _ => step_of_script_nil

end Sys2Proof.Machine
end

section
/-! Reset and soft reset (R38, R44, R241). -/

namespace Sys2Proof.Machine

open Sys2Proof

theorem reset_resetValues : Spec.ResetValues State.reset := by
  simp [Spec.ResetValues, State.reset]

/-- The fields a reset keeps are none of those R44 lists. -/
theorem resetCore_resetValues (s : State) : Spec.ResetValues s.resetCore := reset_resetValues

theorem respond_resetValues {s : State} (h : Spec.ResetValues s) (r : Response) : Spec.ResetValues (s.respond r) := h

/-- Settles O9: both resets end in `State.resetCore`, which holds the reset values. -/
theorem bothResetsGiveTheResetValues : Obligations.BothResetsGiveTheResetValues := by
  refine ⟨reset_resetValues, fun s rest => ⟨?_, fun v hv => ?_⟩⟩
  · rw [step_cons, perform_reset]
    exact ⟨_, rfl, resetCore_resetValues _, rfl⟩
  · rw [step_cons, perform_memWrite, memWrite_ctrl, writeCtrl_of_bit_set hv]
    exact ⟨_, rfl, respond_resetValues (resetCore_resetValues _) _, rfl⟩

/-- Settles O10: by the two cases of a write to `CTRL`, and the reading of a write-only register. -/
theorem ctrlWriteResetsExactlyOnBitZero : Obligations.CtrlWriteResetsExactlyOnBitZero := by
  refine fun s rest v => ⟨fun hv => ⟨_, rfl, ?_⟩, fun hv => ?_, rfl⟩
  · rw [step_cons, perform_memWrite, memWrite_ctrl, writeCtrl_of_bit_set hv]
    rfl
  · rw [step_cons, perform_memWrite, memWrite_ctrl, writeCtrl_of_bit_clear hv]
    rfl

end Sys2Proof.Machine
end

section
/-! The frame of every command (R45), and the caller's registers that no command writes (R43). -/

namespace Sys2Proof.Machine

open Sys2Proof

/-! ### The partly written arrays -/

theorem xWords_eq_x {a b c d : Fin 16} {s t : State} (h : ∀ n : Fin 16, n ∉ [a, b, c, d] → t.x[n] = s.x[n]) :
    Spec.xWords a b c d s t = t.x := by
  ext n hn : 1
  simp only [Spec.xWords, Vector.getElem_ofFn]
  split
  · rfl
  · exact (h ⟨n, hn⟩ ‹_›).symm

theorem xWords_of_x_eq {a b c d : Fin 16} {s t : State} (h : t.x = s.x) : Spec.xWords a b c d s t = s.x := by
  rw [xWords_eq_x fun n _ => by rw [h], h]

theorem dataBytes_eq_data {off len : Nat} {s t : State}
    (h : ∀ k (hk : k < 256), ¬(off ≤ k ∧ k < off + len) → t.data[k] = s.data[k]) :
    Spec.dataBytes off len s t = t.data := by
  ext k hk : 1
  simp only [Spec.dataBytes, Vector.getElem_ofFn]
  split
  · rfl
  · exact (h k hk ‹_›).symm

theorem dataBytes_of_data_eq {off len : Nat} {s t : State} (h : t.data = s.data) :
    Spec.dataBytes off len s t = s.data := by
  rw [dataBytes_eq_data fun k hk _ => by rw [h], h]

theorem quarterAt_of_not_mem (f : Quarter) (v : Bank) {a b c d n : Fin 16} (h : n ∉ [a, b, c, d]) :
    (quarterAt f v (a, b, c, d))[n] = v[n] := by
  simp only [List.mem_cons, List.not_mem_nil, or_false, not_or] at h
  obtain ⟨ha, hb, hc, hd⟩ := h
  exact quarterAt_other f v a b c d n ha hb hc hd

theorem combine_getElem_outside (data : Vector Byte 256) {off len : Nat} {ks : List Byte} (hlen : ks.length ≤ len)
    {k : Nat} (hk : k < 256) (h : ¬(off ≤ k ∧ k < off + len)) : (combine data off ks)[k] = data[k] := by
  rw [combine_getElem, dif_neg (by omega)]

/-! ### The frame -/

/-- Setting the error flags touches no row. -/
theorem touched_errorFlags (i : Instr) (s : State) (e : Bool) (code : ErrCode) :
    Spec.touched i s { s with err := e, errcode := code } = { s with err := e, errcode := code } := by
  cases i with
  | cqr a b c d => simp only [Spec.touched, xWords_of_x_eq]
  | sqr a b c d => simp only [Spec.touched, xWords_of_x_eq]
  | cxcrypt len => simp only [Spec.touched, dataBytes_of_data_eq]
  | rxcrypt len => simp only [Spec.touched, dataBytes_of_data_eq]
  | kxor off len => simp only [Spec.touched, dataBytes_of_data_eq]
  | _ => rfl

theorem cxcryptEffect_data_of_le (len : Nat) (s : State) {k : Nat} (hk : k < 256) (h : len ≤ k) :
    (cxcryptEffect len s).data[k] = s.data[k] := by
  unfold cxcryptEffect
  split
  · simp [cxcryptData_getElem, Nat.not_lt.mpr h]
  · simp [freeData_getElem_of_le len _ _ k hk h]

/-- Each effect writes its row of R45 and nothing else. -/
theorem touched_effectOf (i : Instr) (s : State) : Spec.touched i s (effectOf s i) = effectOf s i := by
  cases i with
  | cqr a b c d =>
    have hx : Spec.xWords a b c d s (cqrEffect (a, b, c, d) s) = (cqrEffect (a, b, c, d) s).x :=
      xWords_eq_x fun n hn => quarterAt_of_not_mem cqr s.x hn
    simp only [Spec.touched, effectOf, hx]
    simp only [cqrEffect]
  | sqr a b c d =>
    have hx : Spec.xWords a b c d s (sqrEffect (a, b, c, d) s) = (sqrEffect (a, b, c, d) s).x :=
      xWords_eq_x fun n hn => quarterAt_of_not_mem sqr s.x hn
    simp only [Spec.touched, effectOf, hx]
    simp only [sqrEffect]
  | cxcrypt len =>
    have hdata : Spec.dataBytes 0 len s (cxcryptEffect len s) = (cxcryptEffect len s).data :=
      dataBytes_eq_data fun k hk h => cxcryptEffect_data_of_le len s hk (by omega)
    simp only [Spec.touched, effectOf, hdata]
    unfold cxcryptEffect
    split <;> simp only [State.countBlocks]
  | rxcrypt len =>
    have hdata : Spec.dataBytes 0 len s (rxcryptEffect len s) = (rxcryptEffect len s).data :=
      dataBytes_eq_data fun k hk h => combine_getElem_outside s.data (prgaBytes_length len s.context).le hk h
    simp only [Spec.touched, effectOf, hdata]
    simp only [rxcryptEffect, State.countBytes, State.withContext]
  | kxor off len =>
    have hdata : Spec.dataBytes off len s (kxorEffect off len s) = (kxorEffect off len s).data :=
      dataBytes_eq_data fun k hk h => combine_getElem_outside s.data (List.length_take_le _ _) hk h
    simp only [Spec.touched, effectOf, hdata]
    simp only [kxorEffect]
  | _ =>
    simp only [Spec.touched, effectOf, xcopyEffect, xaddEffect, cinitEffect, cdrEffect, cblockEffect, sdrEffect, sblockEffect,
      rksaEffect, rnextEffect, rdropEffect, State.countBlocks, State.countBytes, State.withContext]

theorem exec_eq_touched {i : Instr} {s t : State} (h : exec i s = .next t) : t = Spec.touched i s t := by
  rcases exec_cases h with ⟨_, rfl⟩ | ⟨_, code, _, rfl⟩ | ⟨_, _, _, rfl⟩
  · exact (touched_errorFlags i t t.err t.errcode).symm
  · exact (touched_errorFlags i s true code).symm
  · exact (touched_effectOf i s).symm

/-- Settles O18: an ignored or raising command sets at most the error flags, and each effect keeps to its row. -/
theorem commandsTouchOnlyTheirRow : Obligations.CommandsTouchOnlyTheirRow :=
  fun _ _ _ => exec_eq_touched

/-! ### The caller's registers -/

/-- The four registers of R43 that only the host and a reset write. -/
def State.callerOwned (s : State) : Vector Byte 32 × Vector Byte 12 × Word × Vector Byte 256 :=
  (s.key, s.nonce, s.ctr, s.rkey)

theorem State.callerOwned_eq {s t : State} :
    t.callerOwned = s.callerOwned ↔ t.key = s.key ∧ t.nonce = s.nonce ∧ t.ctr = s.ctr ∧ t.rkey = s.rkey := by
  simp [State.callerOwned]

/-- No row of R45 marks one of the caller's registers written. -/
theorem touched_callerOwned (i : Instr) (s t : State) : (Spec.touched i s t).callerOwned = s.callerOwned := by
  cases i <;> simp only [Spec.touched, State.callerOwned]

theorem respond_callerOwned (r : Response) (s : State) : (s.respond r).callerOwned = s.callerOwned := rfl

theorem exec_callerOwned {i : Instr} {s t : State} (h : exec i s = .next t) : t.callerOwned = s.callerOwned :=
  calc t.callerOwned = (Spec.touched i s t).callerOwned := congrArg _ (exec_eq_touched h)
    _ = s.callerOwned := touched_callerOwned i s t

theorem exec_block_st {i : Instr} {s t : State} (h : exec i s = .next t) (hi : i = .cblock ∨ i = .sblock) :
    t.st = s.st := by
  have ht := congrArg State.st (exec_eq_touched h)
  rcases hi with rfl | rfl <;> exact ht

theorem executeWord_callerOwned {w : Word} {s t : State} (h : executeWord w s = .next t) :
    t.callerOwned = s.callerOwned := by
  rcases executeWord_cases h with ⟨_, _, hexec⟩ | ⟨_, _, _, rfl⟩ | ⟨_, _, _, rfl⟩
  · exact exec_callerOwned hexec
  · rfl
  · rfl

/-- A write to address 0 executes a command or is refused for its width. -/
theorem memWrite_zero_callerOwned {width : Width} {v : Word} {s t : State} (h : memWrite 0x000 width v s = .next t) :
    t.callerOwned = s.callerOwned := by
  cases width with
  | word =>
    obtain ⟨u, hu, rfl⟩ := answered_eq_next.mp (memWrite_cmd v s ▸ h)
    rw [respond_callerOwned, executeWord_callerOwned hu]
  | half => cases h; rfl
  | byte => cases h; rfl

theorem step_changing_callerOwned {s t : State} (h : step s = .next t) (hne : t.callerOwned ≠ s.callerOwned) :
    ∃ rest, s.script = .reset :: rest ∨ ∃ a width v, a ≠ 0x000 ∧ s.script = .memWrite a width v :: rest := by
  cases hs : s.script with
  | nil =>
    cases (step_of_script_nil hs).symm.trans h
    exact absurd rfl hne
  | cons action rest =>
    rw [step_of_script_cons hs] at h
    cases action with
    | reset => exact ⟨rest, .inl rfl⟩
    | memRead a width =>
      cases h
      exact absurd rfl hne
    | memWrite a width v =>
      refine ⟨rest, .inr ⟨a, width, v, ?_, rfl⟩⟩
      rintro rfl
      have heq : t.callerOwned = { s with script := rest }.callerOwned := memWrite_zero_callerOwned h
      exact hne heq

/-- Settles O17: a command keeps to its row of R45, which holds none of the four registers, and of the host's actions only a reset
and a write to another address than that of `CMD` are no command and no read. -/
theorem callerOwnedStateIsNeverWritten : Obligations.CallerOwnedStateIsNeverWritten := by
  refine ⟨fun i s t h => ?_, fun s t h hne => step_changing_callerOwned h fun heq => ?_⟩
  · obtain ⟨hkey, hnonce, hctr, hrkey⟩ := State.callerOwned_eq.mp (exec_callerOwned h)
    exact ⟨hkey, hnonce, hctr, hrkey, exec_block_st h⟩
  · obtain ⟨hkey, hnonce, hctr, hrkey⟩ := State.callerOwned_eq.mp heq
    simp [hkey, hnonce, hctr, hrkey] at hne

end Sys2Proof.Machine
end

section
/-! The invariant (R34, R40, R29, R32, R171, R176): it holds after a reset and every step keeps it. -/

namespace Sys2Proof.Machine

open Sys2Proof

/-! ### What the invariant speaks of -/

/-- The fields of the state that the invariant reads. -/
def State.invFields (s : State) : Bool × ErrCode × Phase × Vector Byte 256 × Byte × Byte × Byte :=
  (s.err, s.errcode, s.rphase, s.perm, s.ri, s.rj, s.ksb)

theorem State.Inv.of_invFields_eq {s t : State} (hs : s.Inv) (h : t.invFields = s.invFields) : t.Inv := by
  simp only [State.invFields, Prod.mk.injEq] at h
  obtain ⟨herr, hcode, hphase, hperm, hri, hrj, hksb⟩ := h
  constructor
  · rw [herr, hcode]
    exact hs.errAgrees
  · rw [hphase, hperm]
    exact hs.permutation
  · rw [hphase, hperm]
    exact hs.fresh
  · rw [hphase, hri, hrj, hksb]
    exact hs.notStreaming

/-! ### Reset -/

theorem reset_inv : State.reset.Inv where
  errAgrees := by simp
  permutation := fun h => absurd rfl h
  fresh := fun _ => rfl
  notStreaming := fun _ => ⟨rfl, rfl, rfl⟩

theorem resetCore_inv (s : State) : s.resetCore.Inv := reset_inv.of_invFields_eq rfl

/-- Settles O11: every field the invariant reads is zero, clear or `UNINIT`. -/
theorem resetMeetsTheInvariant : Obligations.ResetMeetsTheInvariant := reset_inv

/-! ### Errors -/

theorem State.Inv.raise {s : State} (hs : s.Inv) {code : ErrCode} (h : code ≠ .none) : (s.raise code).Inv where
  errAgrees := by simp [h]
  permutation := hs.permutation
  fresh := hs.fresh
  notStreaming := hs.notStreaming

theorem operandErrorOf_ne_none (i : Instr) : operandErrorOf i ≠ some .none := by
  cases i <;> simp [operandErrorOf, indexError, lengthError, rangeError, keylenError]

theorem stateErrorOf_ne_none (s : State) (i : Instr) : stateErrorOf s i ≠ some .none := by
  cases i <;> simp [stateErrorOf, needsFresh, needsContext]

theorem raisedCode_ne_none {i : Instr} {s : State} {code : ErrCode}
    (h : (operandErrorOf i).or (stateErrorOf s i) = some code) : code ≠ .none := by
  rintro rfl
  rcases Option.or_eq_some_iff.mp h with ho | ⟨_, hs⟩
  · exact operandErrorOf_ne_none i ho
  · exact stateErrorOf_ne_none s i hs

/-! ### The RC4 commands -/

theorem needsFresh_eq_none {s : State} : needsFresh s = none ↔ s.rphase = .uninit := by simp [needsFresh]

theorem needsContext_eq_none {s : State} : needsContext s = none ↔ s.rphase ≠ .uninit := by simp [needsContext]

/-- Effects leave the error flags, so they keep them agreeing. -/
theorem State.Inv.effectOf_errAgrees {s : State} (hs : s.Inv) (i : Instr) :
    (effectOf s i).err = false ↔ (effectOf s i).errcode = .none := by
  rw [effectOf_err, effectOf_errcode]
  exact hs.errAgrees

/-- A fresh state's `KSB` is zero, and key scheduling leaves it (R172). -/
theorem State.Inv.rksaEffect {s : State} (hs : s.Inv) (hphase : s.rphase = .uninit) (keylen : Nat) :
    (rksaEffect keylen s).Inv where
  errAgrees := hs.effectOf_errAgrees (.rksa keylen)
  permutation := fun _ => keySchedule_isPermutation s.rkey keylen
  fresh := fun h => nomatch h
  notStreaming := fun _ => by
    obtain ⟨_, _, hksb⟩ := hs.notStreaming (by simp [hphase])
    simp only [Machine.rksaEffect, hksb, and_self]

theorem State.Inv.rnextEffect {s : State} (hs : s.Inv) (hphase : s.rphase ≠ .uninit) : (rnextEffect s).Inv where
  errAgrees := hs.effectOf_errAgrees .rnext
  permutation := fun _ => prgaStep_isPermutation s.context (hs.permutation hphase)
  fresh := fun h => nomatch h
  notStreaming := fun h => absurd rfl h

/-- `RXCRYPT 0` generates no byte: it changes nothing the invariant reads (R175). -/
theorem rxcryptEffect_zero_invFields (s : State) : (rxcryptEffect 0 s).invFields = s.invFields := by
  simp [State.invFields, rxcryptEffect, prgaBytes]

theorem rxcryptEffect_rphase {len : Nat} (h : len ≠ 0) (s : State) : (rxcryptEffect len s).rphase = .streaming := by
  simp [rxcryptEffect, Nat.one_le_iff_ne_zero.mpr h]

theorem State.Inv.rxcryptEffect {s : State} (hs : s.Inv) (hphase : s.rphase ≠ .uninit) (len : Nat) :
    (rxcryptEffect len s).Inv := by
  rcases eq_or_ne len 0 with rfl | hlen
  · exact hs.of_invFields_eq (rxcryptEffect_zero_invFields s)
  · have hstreaming := rxcryptEffect_rphase hlen s
    exact {
      errAgrees := hs.effectOf_errAgrees (.rxcrypt len)
      permutation := fun _ => prgaBytes_isPermutation len s.context (hs.permutation hphase)
      fresh := fun h => by simp [hstreaming] at h
      notStreaming := fun h => absurd hstreaming h }

theorem State.Inv.rdropEffect {s : State} (hs : s.Inv) : (rdropEffect s).Inv where
  errAgrees := hs.effectOf_errAgrees .rdrop
  permutation := fun h => absurd rfl h
  fresh := fun _ => rfl
  notStreaming := fun _ => ⟨rfl, rfl, rfl⟩

/-! ### Every command -/

theorem effectOf_invFields {i : Instr} (h : Spec.rc4Command i = false) (s : State) :
    (effectOf s i).invFields = s.invFields := by
  cases i with
  | rksa | rnext | rxcrypt | rdrop => cases h
  | cxcrypt len =>
    simp only [effectOf, cxcryptEffect]
    split <;> simp only [State.invFields, State.countBlocks]
  | _ =>
    simp only [State.invFields, effectOf, xcopyEffect, xaddEffect, cinitEffect, cqrEffect, cdrEffect, cblockEffect, sqrEffect,
      sdrEffect, sblockEffect, kxorEffect, State.countBlocks]

theorem State.Inv.effectOf {s : State} (hs : s.Inv) {i : Instr} (h : stateErrorOf s i = none) :
    (effectOf s i).Inv := by
  cases i with
  | rksa keylen => exact hs.rksaEffect (needsFresh_eq_none.mp h) keylen
  | rnext => exact hs.rnextEffect (needsContext_eq_none.mp h)
  | rxcrypt len => exact hs.rxcryptEffect (needsContext_eq_none.mp h) len
  | rdrop => exact hs.rdropEffect
  | _ => exact hs.of_invFields_eq (effectOf_invFields rfl s)

theorem State.Inv.exec {s t : State} (hs : s.Inv) {i : Instr} (h : exec i s = .next t) : t.Inv := by
  rcases exec_cases h with ⟨_, rfl⟩ | ⟨_, code, hcode, rfl⟩ | ⟨_, _, hstate, rfl⟩
  · exact hs
  · exact hs.raise (raisedCode_ne_none hcode)
  · exact hs.effectOf hstate

theorem State.Inv.executeWord {s t : State} (hs : s.Inv) {w : Word} (h : executeWord w s = .next t) : t.Inv := by
  rcases executeWord_cases h with ⟨_, _, hexec⟩ | ⟨_, _, _, rfl⟩ | ⟨_, _, _, rfl⟩
  · exact hs.exec hexec
  · exact hs
  · exact hs.raise (by decide)

/-! ### Every host action -/

theorem State.Inv.respond {s : State} (hs : s.Inv) (r : Response) : (s.respond r).Inv := hs.of_invFields_eq rfl

theorem State.Inv.writeCtrl {s : State} (hs : s.Inv) (v : Word) : (writeCtrl v s).Inv := by
  cases hv : v.getLsbD 0 with
  | false =>
    rw [writeCtrl_of_bit_clear hv]
    exact hs
  | true =>
    rw [writeCtrl_of_bit_set hv]
    exact resetCore_inv s

/-- Beside `CMD` and `CTRL` no register that the host can write is one the invariant reads. -/
theorem State.Inv.writeReg {s t : State} (hs : s.Inv) {v : Word} {r : Reg} (h : writeReg v s r = .next t) : t.Inv := by
  cases r with
  | cmd =>
    obtain ⟨u, hu, rfl⟩ := answered_eq_next.mp h
    exact (hs.executeWord hu).respond .ok
  | ctrl =>
    cases h
    exact (hs.writeCtrl v).respond .ok
  | _ =>
    cases h
    exact hs.of_invFields_eq rfl

theorem State.Inv.memWrite {s t : State} (hs : s.Inv) {a : Addr} {width : Width} {v : Word}
    (h : memWrite a width v s = .next t) : t.Inv := by
  cases hr : target a width with
  | none =>
    cases (memWrite_of_no_target hr v s).symm.trans h
    exact hs.respond .busErr
  | some r => exact hs.writeReg (memWrite_of_target hr v s ▸ h)

theorem State.Inv.perform {s t : State} (hs : s.Inv) {a : HostAction} (h : perform a s = .next t) : t.Inv := by
  cases a with
  | reset =>
    cases h
    exact resetCore_inv s
  | memRead a width =>
    cases h
    exact hs.respond _
  | memWrite a width v => exact hs.memWrite h

theorem State.Inv.step {s t : State} (hs : s.Inv) (h : step s = .next t) : t.Inv := by
  cases hscript : s.script with
  | nil =>
    cases (step_of_script_nil hscript).symm.trans h
    exact hs
  | cons a rest =>
    have hrest : { s with script := rest }.Inv := hs.of_invFields_eq rfl
    exact hrest.perform (step_of_script_cons hscript ▸ h)

/-- Settles O12: by cases on the host action, and for a command on its constructor; the RC4 commands' checks and the lemmas on
permutations carry the part that speaks of the context. -/
theorem everyStepKeepsTheInvariant : Obligations.EveryStepKeepsTheInvariant :=
  fun _ _ hs h => hs.step h

end Sys2Proof.Machine
end

section
/-! The address map (R60 to R63): what an address reaches, and which addresses reach nothing. -/

namespace Sys2Proof.Machine

open Sys2Proof

theorem Reg.address_aligned (r : Reg) : r.address % 4 = 0 := by
  cases r <;> simp only [Reg.address] <;> omega

/-- The registers fill the map up to `0x04B` and from `0x080` to `0x3FF`; between and above them no register lies (R61, R63). -/
theorem Reg.address_mapped (r : Reg) : r.address < 0x04C ∨ 0x07F < r.address ∧ r.address < 0x400 := by
  cases r <;> simp only [Reg.address] <;> omega

theorem address_of_regAt {a : Addr} {r : Reg} (h : regAt a = some r) : a.toNat = r.address := by
  revert h
  fun_cases regAt a <;> intro h <;> cases h <;> simp only [Reg.address] <;> omega

/-- The map evaluated at every address it lists, one array at a time. -/
theorem regAt_address (r : Reg) : regAt (BitVec.ofNat 12 r.address) = some r := by
  cases r with
  | key w => revert w; decide
  | nonce w => revert w; decide
  | st n => revert n; decide
  | x n => revert n; decide
  | rkey w => revert w; decide
  | data w => revert w; decide
  | perm w => revert w; decide
  | _ => rfl

/-- Settles O49: no branch of the map answers a register that lies elsewhere, and every register is found at its address. -/
theorem addressMapIsExact : Obligations.AddressMapIsExact := by
  refine fun a r => ⟨address_of_regAt, fun h => ?_⟩
  rw [← regAt_address r, ← h, BitVec.ofNat_toNat, BitVec.setWidth_eq]

theorem target_address (r : Reg) : target (BitVec.ofNat 12 r.address) .word = some r :=
  regAt_address r

theorem address_of_target {a : Addr} {width : Width} {r : Reg} (h : target a width = some r) :
    width = .word ∧ a.toNat = r.address := by
  cases width with
  | word => exact ⟨rfl, address_of_regAt h⟩
  | half => cases h
  | byte => cases h

/-- A narrow, a misaligned and an unmapped access reach nothing (R62, R63). -/
theorem target_eq_none {a : Addr} {width : Width}
    (h : width ≠ .word ∨ a.toNat % 4 ≠ 0 ∨ (0x04C ≤ a.toNat ∧ a.toNat ≤ 0x07F) ∨ 0x400 ≤ a.toNat) :
    target a width = none := by
  cases hr : target a width with
  | none => rfl
  | some r =>
    obtain ⟨hword, haddr⟩ := address_of_target hr
    have haligned := r.address_aligned
    have hmapped := r.address_mapped
    rcases h with hnarrow | hrest
    · exact absurd hword hnarrow
    · omega

end Sys2Proof.Machine
end

section
/-! One port access as a step: what it reads, stores or refuses (R62 to R68). -/

namespace Sys2Proof.Machine

open Sys2Proof

/-! ### Reads -/

/-- No register shows the script or the record of responses. -/
theorem readReg_bookkeeping (s : State) (actions : List HostAction) (answers : List Response) (r : Reg) :
    readReg { s with script := actions, responses := answers } r = readReg s r := by
  cases r <;> rfl

theorem step_memRead {a : Addr} {width : Width} {r : Reg} (h : target a width = some r) (s : State)
    (rest : List HostAction) :
    step { s with script := .memRead a width :: rest } =
      .next { s with script := rest, responses := .value (readReg s r) :: s.responses } := by
  rw [step_cons, perform_memRead, readResponse, h]
  simp only [readReg_bookkeeping]
  rfl

theorem step_memRead_refused {a : Addr} {width : Width} (h : target a width = none) (s : State)
    (rest : List HostAction) :
    step { s with script := .memRead a width :: rest } =
      .next { s with script := rest, responses := .busErr :: s.responses } := by
  rw [step_cons, perform_memRead, readResponse, h]
  rfl

/-! ### Writes -/

theorem step_memWrite {a : Addr} {width : Width} {r : Reg} (h : target a width = some r) (v : Word) (s : State)
    (rest : List HostAction) :
    step { s with script := .memWrite a width v :: rest } = writeReg v { s with script := rest } r := by
  rw [step_cons, perform_memWrite, memWrite_of_target h]

theorem step_memWrite_refused {a : Addr} {width : Width} (h : target a width = none) (v : Word) (s : State)
    (rest : List HostAction) :
    step { s with script := .memWrite a width v :: rest } =
      .next { s with script := rest, responses := .busErr :: s.responses } := by
  rw [step_cons, perform_memWrite, memWrite_of_no_target h]
  rfl

/-- The registers at `0x004`, from `0x010` to `0x01F` and from `0x300` on are the read-only ones (R61, R68). -/
theorem writeReg_of_readOnly {r : Reg}
    (h : r.address = 0x004 ∨ (0x010 ≤ r.address ∧ r.address ≤ 0x01F) ∨ (0x300 ≤ r.address ∧ r.address ≤ 0x3FF))
    (v : Word) (s : State) : writeReg v s r = .next (s.respond .busErr) := by
  cases r with
  | status => rfl
  | nblk => rfl
  | nbyte => rfl
  | ksb => rfl
  | rcur => rfl
  | perm w => rfl
  | _ => simp only [Reg.address] at h; omega

/-- A write in a read-only range is refused, whether its address reaches a register or, misaligned or narrow, none. -/
theorem step_memWrite_readOnly {a : Addr}
    (h : a.toNat = 0x004 ∨ (0x010 ≤ a.toNat ∧ a.toNat ≤ 0x01F) ∨ (0x300 ≤ a.toNat ∧ a.toNat ≤ 0x3FF))
    (width : Width) (v : Word) (s : State) (rest : List HostAction) :
    step { s with script := .memWrite a width v :: rest } =
      .next { s with script := rest, responses := .busErr :: s.responses } := by
  cases hr : target a width with
  | none => exact step_memWrite_refused hr v s rest
  | some r =>
    obtain ⟨-, haddr⟩ := address_of_target hr
    rw [step_memWrite hr, writeReg_of_readOnly (haddr ▸ h)]
    rfl

/-- Settles O50: refused accesses reach no register, and a read-only register refuses the write that reaches it. -/
theorem refusedAccessesAnswerBusErr : Obligations.RefusedAccessesAnswerBusErr := fun s rest _ width v =>
  ⟨fun h => ⟨step_memRead_refused (target_eq_none h) s rest, step_memWrite_refused (target_eq_none h) v s rest⟩,
    fun h => step_memWrite_readOnly h width v s rest⟩

end Sys2Proof.Machine
end

section
/-! The values registers read as, on plain numbers (R37, R39, R66, R67). -/

namespace Sys2Proof.Machine

open Sys2Proof

theorem Phase.bits_toNat (p : Phase) : p.bits.toNat = Spec.phaseNumber p := by cases p <;> rfl

theorem ErrCode.bits_toNat (c : ErrCode) : c.bits.toNat = Spec.codeNumber c := by cases c <;> rfl

/-- Concatenation on plain numbers: the left part stands above the bits of the right one. -/
theorem append_toNat {m n : Nat} (high : BitVec m) (low : BitVec n) :
    (high ++ low).toNat = low.toNat + 2 ^ n * high.toNat := by
  rw [BitVec.toNat_append, ← Nat.shiftLeft_add_eq_or_of_lt low.isLt, Nat.shiftLeft_eq, Nat.mul_comm, Nat.add_comm]

theorem statusWord_toNat (s : State) :
    (statusWord s).toNat = s.err.toNat + 16 * Spec.codeNumber s.errcode + 256 * Spec.phaseNumber s.rphase := by
  have hzero : (0 : BitVec 3).toNat = 0 := rfl
  rw [statusWord, BitVec.toNat_setWidth_of_le (by decide), append_toNat, append_toNat, append_toNat, Phase.bits_toNat,
    ErrCode.bits_toNat, BitVec.toNat_ofBool, hzero]
  omega

theorem ksbWord_toNat (s : State) : (ksbWord s).toNat = s.ksb.toNat :=
  BitVec.toNat_setWidth_of_le (by decide)

theorem rcurWord_toNat (s : State) : (rcurWord s).toNat = s.ri.toNat + 256 * s.rj.toNat := by
  rw [rcurWord, BitVec.toNat_setWidth_of_le (by decide), append_toNat]
  rfl

theorem bytes_of_lt {m k : Nat} (b : Vector Byte m) (h : k < m) : Spec.bytes b k = b[k].toNat := dif_pos h

theorem packedWord_toNat {n : Nat} (b : Vector Byte n) (w : Nat) (h : 4 * w + 3 < n) :
    (packedWord b w h).toNat = Spec.le (Spec.bytes b) w := by
  rw [packedWord, le32_toNat, Spec.le, bytes_of_lt, bytes_of_lt, bytes_of_lt, bytes_of_lt]

theorem readReg_toNat (s : State) (r : Reg) : (readReg s r).toNat = Spec.registerValue s r := by
  cases r with
  | cmd => rfl
  | status => exact statusWord_toNat s
  | ctrl => rfl
  | ctr => rfl
  | nblk => rfl
  | nbyte => rfl
  | ksb => exact ksbWord_toNat s
  | rcur => exact rcurWord_toNat s
  | key w => exact packedWord_toNat ..
  | nonce w => exact packedWord_toNat ..
  | st n => rfl
  | x n => rfl
  | rkey w => exact packedWord_toNat ..
  | data w => exact packedWord_toNat ..
  | perm w => exact packedWord_toNat ..

/-- Settles O51: the value read is `readReg`, whose number is the table's. -/
theorem readsAnswerTheTableAndChangeNothing : Obligations.ReadsAnswerTheTableAndChangeNothing :=
  fun s rest r => ⟨readReg s r, readReg_toNat s r, step_memRead (target_address r) s rest⟩

end Sys2Proof.Machine
end

section
/-! Writes that store (R65, R66, R67): the field each one replaces, and what every register reads as afterwards. -/

namespace Sys2Proof.Machine

open Sys2Proof

/-- `s` with `v` stored in a register; a register whose write does not simply store leaves `s`. `writeReg_of_storing` ties it
to the port. -/
def storeReg (v : Word) (s : State) : Reg → State
  | .ctr => { s with ctr := v }
  | .key w => { s with key := storeWord s.key w.val v }
  | .nonce w => { s with nonce := storeWord s.nonce w.val v }
  | .st n => { s with st := s.st.set n v }
  | .x n => { s with x := s.x.set n v }
  | .rkey w => { s with rkey := storeWord s.rkey w.val v }
  | .data w => { s with data := storeWord s.data w.val v }
  | _ => s

theorem writeReg_of_storing {r : Reg} (h : Spec.storing r = true) (v : Word) (s : State) :
    writeReg v s r = .next ((storeReg v s r).respond .ok) := by
  cases r <;> cases h <;> rfl

theorem storeReg_freeCount (v : Word) (s : State) (r : Reg) : (storeReg v s r).freeCount = s.freeCount := by
  cases r <;> rfl

theorem step_memWrite_storing {r : Reg} (h : Spec.storing r = true) (v : Word) (s : State) (rest : List HostAction) :
    step { s with script := .memWrite (BitVec.ofNat 12 r.address) .word v :: rest } =
      .next { storeReg v s r with script := rest, responses := .ok :: s.responses } := by
  rw [step_memWrite (target_address r), writeReg_of_storing h]
  cases r <;> rfl

theorem readReg_storeReg_same {r : Reg} (h : Spec.storing r = true) (v : Word) (s : State) :
    readReg (storeReg v s r) r = v := by
  cases r with
  | ctr => rfl
  | key w => exact packedWord_storeWord_same ..
  | nonce w => exact packedWord_storeWord_same ..
  | st n => exact Vector.getElem_set_self ..
  | x n => exact Vector.getElem_set_self ..
  | rkey w => exact packedWord_storeWord_same ..
  | data w => exact packedWord_storeWord_same ..
  | _ => cases h

/-- A store reaches one field, and within an array or a bank one word of it. -/
theorem readReg_storeReg_other {r r' : Reg} (hne : r' ≠ r) (v : Word) (s : State) :
    readReg (storeReg v s r) r' = readReg s r' := by
  cases r with
  | ctr =>
    cases r' with
    | ctr => exact absurd rfl hne
    | _ => rfl
  | key w =>
    cases r' with
    | key u => exact packedWord_storeWord_other s.key w u v (by omega) (by omega) fun h => hne (by rw [Fin.ext h])
    | _ => rfl
  | nonce w =>
    cases r' with
    | nonce u => exact packedWord_storeWord_other s.nonce w u v (by omega) (by omega) fun h => hne (by rw [Fin.ext h])
    | _ => rfl
  | st n =>
    cases r' with
    | st m => exact Vector.getElem_set_ne n.isLt m.isLt fun h => hne (by rw [Fin.ext h])
    | _ => rfl
  | x n =>
    cases r' with
    | x m => exact Vector.getElem_set_ne n.isLt m.isLt fun h => hne (by rw [Fin.ext h])
    | _ => rfl
  | rkey w =>
    cases r' with
    | rkey u => exact packedWord_storeWord_other s.rkey w u v (by omega) (by omega) fun h => hne (by rw [Fin.ext h])
    | _ => rfl
  | data w =>
    cases r' with
    | data u => exact packedWord_storeWord_other s.data w u v (by omega) (by omega) fun h => hne (by rw [Fin.ext h])
    | _ => rfl
  | _ => rfl

/-- Settles O52: the step stores by `storeReg`, after which the register and every other one read as they should. -/
theorem writesLandInTheAddressedRegister : Obligations.WritesLandInTheAddressedRegister := by
  intro s rest r v hr
  refine ⟨_, step_memWrite_storing hr v s rest, rfl, rfl, storeReg_freeCount v s r, ?_, fun r' hne => ?_⟩
  · rw [readReg_bookkeeping, readReg_storeReg_same hr]
  · rw [readReg_bookkeeping, readReg_storeReg_other hne]

/-- A stored word's byte `m` lies at index `4w + m`, every other byte stays (R66). -/
theorem bytes_storeWord {n : Nat} (b : Vector Byte n) (w : Nat) (v : Word) (h : 4 * w + 3 < n) (k : Nat) (hk : k < n) :
    Spec.bytes (storeWord b w v h) k = if k / 4 = w then v.toNat / 256 ^ (k % 4) % 256 else Spec.bytes b k := by
  rw [bytes_of_lt _ hk, bytes_of_lt _ hk, storeWord_getElem, apply_ite BitVec.toNat, byteOf_toNat, pow_mul,
    show 2 ^ 8 = 256 from rfl]

/-- Settles O53: each write stores a word in its array, each read packs one. -/
theorem byteArraysArePackedLittleEndian : Obligations.ByteArraysArePackedLittleEndian := by
  intro s rest v lane after reads
  have hreads : ∀ r : Reg, reads (BitVec.ofNat 12 r.address) (Spec.registerValue s r) :=
    readsAnswerTheTableAndChangeNothing s rest
  exact
    ⟨fun w => ⟨_, step_memWrite_storing (r := .key w) rfl v s rest, bytes_storeWord s.key w.val v _⟩,
      fun w => ⟨_, step_memWrite_storing (r := .nonce w) rfl v s rest, bytes_storeWord s.nonce w.val v _⟩,
      fun w => ⟨_, step_memWrite_storing (r := .rkey w) rfl v s rest, bytes_storeWord s.rkey w.val v _⟩,
      fun w => ⟨_, step_memWrite_storing (r := .data w) rfl v s rest, bytes_storeWord s.data w.val v _⟩,
      fun w => hreads (.key w), fun w => hreads (.nonce w), fun w => hreads (.rkey w), fun w => hreads (.data w),
      fun w => hreads (.perm w)⟩

/-- Settles O54: a store to one bank, a read of it, each a step by its own lemma. -/
theorem banksHoldNumbersAndAreDistinct : Obligations.BanksHoldNumbersAndAreDistinct := fun s rest v n =>
  ⟨step_memWrite_storing (r := .st n) rfl v s rest, step_memWrite_storing (r := .x n) rfl v s rest,
    step_memRead (target_address (.st n)) s rest, step_memRead (target_address (.x n)) s rest⟩

end Sys2Proof.Machine
end

section
/-! The command encoding (R90 to R97, R101): what a word decodes to, in terms of its bit fields and of the encoder. -/

namespace Sys2Proof

/-! ### Decoding by bit fields -/

/-- The ends `(hi, lo)` of the bits that the format of a command requires to be 0 (R92 to R95). -/
def Instr.reserved : Instr → Nat × Nat
  | .cqr _ _ _ _ => (23, 16)
  | .sqr _ _ _ _ => (23, 16)
  | .cxcrypt _ => (23, 9)
  | .rksa _ => (23, 9)
  | .rxcrypt _ => (23, 9)
  | .kxor _ _ => (15, 7)
  | _ => (23, 0)

/-- The operands of a command are the fields that its format reads from `w` (R93 to R95). -/
def Instr.OperandsIn (w : Word) : Instr → Prop
  | .cqr a b c d => indexField w 12 = a ∧ indexField w 8 = b ∧ indexField w 4 = c ∧ indexField w 0 = d
  | .sqr a b c d => indexField w 12 = a ∧ indexField w 8 = b ∧ indexField w 4 = c ∧ indexField w 0 = d
  | .cxcrypt len => field w 8 0 = len
  | .rksa keylen => field w 8 0 = keylen
  | .rxcrypt len => field w 8 0 = len
  | .kxor off len => field w 23 16 = off ∧ field w 6 0 = len
  | _ => True

/-- The fields of `w` are those of a command: its opcode, zeros, its operands. `decode_eq_ok_iff_fieldsOf` ties this to the
decoder. -/
def Instr.FieldsOf (w : Word) (i : Instr) : Prop :=
  field w 31 24 = i.opcode ∧ field w i.reserved.1 i.reserved.2 = 0 ∧ i.OperandsIn w

/-- Each branch of the decoder reads the fields of the commands it answers; the cases are grouped by format. -/
theorem fieldsOf_of_decode {w : Word} {i : Instr} (h : decode w = .ok i) : i.FieldsOf w := by
  unfold decode at h
  split at h
  case h_1 | h_2 | h_3 | h_5 | h_6 | h_9 | h_10 | h_12 | h_14 =>
    obtain ⟨hzero, rfl⟩ := (formatN_eq_ok ..).mp h
    exact ⟨‹_›, hzero, trivial⟩
  case h_4 | h_8 =>
    obtain ⟨hzero, rfl⟩ := (formatQ_eq_ok ..).mp h
    exact ⟨‹_›, hzero, rfl, rfl, rfl, rfl⟩
  case h_7 | h_11 | h_13 =>
    obtain ⟨hzero, rfl⟩ := (formatL_eq_ok ..).mp h
    exact ⟨‹_›, hzero, rfl⟩
  case h_15 =>
    obtain ⟨hzero, rfl⟩ := (formatC_eq_ok ..).mp h
    exact ⟨‹_›, hzero, rfl, rfl⟩
  case h_16 => cases h

theorem decode_of_fieldsOf {w : Word} {i : Instr} (h : i.FieldsOf w) : decode w = .ok i := by
  obtain ⟨hop, hzero, hoperands⟩ := h
  unfold decode
  rw [hop]
  cases i with
  | cqr | sqr =>
    obtain ⟨rfl, rfl, rfl, rfl⟩ := hoperands
    exact (formatQ_eq_ok ..).mpr ⟨hzero, rfl⟩
  | cxcrypt | rksa | rxcrypt =>
    obtain rfl := hoperands
    exact (formatL_eq_ok ..).mpr ⟨hzero, rfl⟩
  | kxor =>
    obtain ⟨rfl, rfl⟩ := hoperands
    exact (formatC_eq_ok ..).mpr ⟨hzero, rfl⟩
  | _ => exact (formatN_eq_ok ..).mpr ⟨hzero, rfl⟩

theorem decode_eq_ok_iff_fieldsOf {w : Word} {i : Instr} : decode w = .ok i ↔ i.FieldsOf w :=
  ⟨fieldsOf_of_decode, decode_of_fieldsOf⟩

/-! ### Decoding and encoding -/

/-- Below the opcode, the reserved zeros and the operand fields together are the number that R101 gives the operands. -/
theorem reserved_and_operandsIn_iff (w : Word) (i : Instr) :
    field w i.reserved.1 i.reserved.2 = 0 ∧ i.OperandsIn w ↔ i.wf = true ∧ w.toNat % 2 ^ 24 = i.operandBits := by
  cases i <;>
    simp only [Instr.reserved, Instr.OperandsIn, Instr.wf, Instr.operandBits, field, indexField, Fin.ext_iff,
      Bool.and_eq_true, decide_eq_true_eq, and_true, true_and] <;>
    omega

theorem encode_eq_iff {i : Instr} (h : i.wf = true) (w : Word) :
    encode i = w ↔ field w 31 24 = i.opcode ∧ w.toNat % 2 ^ 24 = i.operandBits := by
  have hbits := operandBits_lt i h
  have hw := w.isLt
  rw [← BitVec.toNat_inj, encode_toNat i h, field]
  omega

/-- The decoder and the encoder are inverse to each other (R97, R101). -/
theorem decode_eq_ok_iff_encode_eq {w : Word} {i : Instr} : decode w = .ok i ↔ i.wf = true ∧ encode i = w := by
  rw [decode_eq_ok_iff_fieldsOf, Instr.FieldsOf, reserved_and_operandsIn_iff]
  constructor
  · rintro ⟨hop, hwf, hbits⟩
    exact ⟨hwf, (encode_eq_iff hwf w).mpr ⟨hop, hbits⟩⟩
  · rintro ⟨hwf, henc⟩
    obtain ⟨hop, hbits⟩ := (encode_eq_iff hwf w).mp henc
    exact ⟨hop, hwf, hbits⟩

/-- Settles O1: an encoded word has the fields of its command. -/
theorem decodeOfEncodedCommand : Obligations.DecodeOfEncodedCommand :=
  fun _ hwf => decode_eq_ok_iff_encode_eq.mpr ⟨hwf, rfl⟩

/-- Settles O2: the fields of a word that decodes make up the whole word. -/
theorem encodeOfDecodedWord : Obligations.EncodeOfDecodedWord :=
  fun _ _ => decode_eq_ok_iff_encode_eq.mp

end Sys2Proof
end

section
/-! The opcode table of R97: its masks in terms of bit fields, held against the decoder. -/

namespace Sys2Proof

/-! ### Masks as bit fields -/

/-- The word whose bits `hi` down to `lo` are 1. -/
def fieldMask (hi lo : Nat) : Word := BitVec.ofNat 32 ((2 ^ (hi + 1 - lo) - 1) * 2 ^ lo)

theorem width_mul_offset_le {hi lo n : Nat} (hlo : lo ≤ hi) (hhi : hi < n) : 2 ^ (hi + 1 - lo) * 2 ^ lo ≤ 2 ^ n := by
  rw [← pow_add, Nat.sub_add_cancel (by omega)]
  exact Nat.pow_le_pow_right (by decide) hhi

theorem field_mul_offset_lt (w : Word) {hi lo n : Nat} (hlo : lo ≤ hi) (hhi : hi < n) : field w hi lo * 2 ^ lo < 2 ^ n :=
  (Nat.mul_lt_mul_of_pos_right (field_lt w hi lo) (Nat.two_pow_pos lo)).trans_le (width_mul_offset_le hlo hhi)

theorem toNat_fieldMask {hi lo : Nat} (hlo : lo ≤ hi) (hhi : hi < 32) :
    (fieldMask hi lo).toNat = (2 ^ (hi + 1 - lo) - 1) * 2 ^ lo := by
  have hlt : (2 ^ (hi + 1 - lo) - 1) * 2 ^ lo < 2 ^ (hi + 1 - lo) * 2 ^ lo := by gcongr; simp
  rw [fieldMask, BitVec.toNat_ofNat, Nat.mod_eq_of_lt (hlt.trans_le (width_mul_offset_le hlo hhi))]

theorem toNat_and_fieldMask (w : Word) {hi lo : Nat} (hlo : lo ≤ hi) (hhi : hi < 32) :
    (w &&& fieldMask hi lo).toNat = field w hi lo * 2 ^ lo := by
  rw [BitVec.toNat_and, toNat_fieldMask hlo hhi, field]
  refine Nat.eq_of_testBit_eq fun k => ?_
  rcases Nat.lt_or_ge k lo with hk | hk
  · simp [Nat.testBit_mul_two_pow, Nat.not_le.mpr hk]
  · simp [Nat.testBit_mul_two_pow, Nat.testBit_two_pow_sub_one, Nat.testBit_mod_two_pow, Nat.testBit_div_two_pow, hk,
      Bool.and_comm]

/-- The opcode byte and a field below it occupy disjoint bits, so under both masks a word shows their sum. -/
theorem toNat_and_opcodeMask_or_fieldMask (w : Word) {hi lo : Nat} (hlo : lo ≤ hi) (hhi : hi < 24) :
    (w &&& (fieldMask 31 24 ||| fieldMask hi lo)).toNat = 2 ^ 24 * field w 31 24 + field w hi lo * 2 ^ lo := by
  rw [BitVec.and_or_distrib_left, BitVec.toNat_or, toNat_and_fieldMask w (by decide) (by decide),
    toNat_and_fieldMask w hlo (by omega), Nat.mul_comm,
    Nat.two_pow_add_eq_or_of_lt (field_mul_offset_lt w hlo hhi)]

theorem and_opcodeMask_or_fieldMask_eq_iff (w : Word) {op hi lo : Nat} (hop : op < 2 ^ 8) (hlo : lo ≤ hi) (hhi : hi < 24) :
    w &&& (fieldMask 31 24 ||| fieldMask hi lo) = BitVec.ofNat 32 (op * 2 ^ 24) ↔
      field w 31 24 = op ∧ field w hi lo = 0 := by
  have hzero : field w hi lo = 0 ↔ field w hi lo * 2 ^ lo = 0 := by simp
  have hlow : field w hi lo * 2 ^ lo < 2 ^ 24 := field_mul_offset_lt w hlo hhi
  rw [← BitVec.toNat_inj, toNat_and_opcodeMask_or_fieldMask w hlo hhi, BitVec.toNat_ofNat, hzero]
  omega

/-! ### The rows -/

theorem mnemonic_eq_iff (i : Instr) : ∀ r ∈ opcodeTable, i.mnemonic = r.mnemonic ↔ i.opcode = r.op := by
  cases i <;> simp only [Instr.mnemonic, Instr.opcode] <;> decide

theorem exists_row (i : Instr) : ∃ r ∈ opcodeTable, i.opcode = r.op := by
  cases i <;> simp only [Instr.opcode] <;> decide

/-- A row's mask covers the opcode and the reserved bits of the row's command, and its match has the opcode alone. -/
theorem row_bits (i : Instr) : ∀ r ∈ opcodeTable, i.opcode = r.op →
    r.mask = fieldMask 31 24 ||| fieldMask i.reserved.1 i.reserved.2 ∧
      r.matchBits = BitVec.ofNat 32 (i.opcode * 2 ^ 24) := by
  cases i <;> simp only [Instr.reserved, Instr.opcode] <;> decide

theorem reserved_bounds (i : Instr) : i.reserved.2 ≤ i.reserved.1 ∧ i.reserved.1 < 24 := by
  cases i <;> simp only [Instr.reserved] <;> decide

/-- Every word holds operands for the command of every row: no operand field refuses a value (R96). -/
theorem exists_operandsIn (w : Word) : ∀ r ∈ opcodeTable, ∃ i : Instr, i.opcode = r.op ∧ i.OperandsIn w := by
  simp only [opcodeTable, List.forall_mem_cons]
  exact ⟨⟨.xcopy, rfl, trivial⟩, ⟨.xadd, rfl, trivial⟩, ⟨.cinit, rfl, trivial⟩, ⟨.cqr .., rfl, rfl, rfl, rfl, rfl⟩,
    ⟨.cdr, rfl, trivial⟩, ⟨.cblock, rfl, trivial⟩, ⟨.cxcrypt _, rfl, rfl⟩, ⟨.sqr .., rfl, rfl, rfl, rfl, rfl⟩,
    ⟨.sdr, rfl, trivial⟩, ⟨.sblock, rfl, trivial⟩, ⟨.rksa _, rfl, rfl⟩, ⟨.rnext, rfl, trivial⟩, ⟨.rxcrypt _, rfl, rfl⟩,
    ⟨.rdrop, rfl, trivial⟩, ⟨.kxor .., rfl, rfl, rfl⟩, fun _ h => nomatch h⟩

/-- A word matches the row of a command's opcode exactly when it has that opcode and zeros in the command's reserved bits. -/
theorem matches_row_iff {i : Instr} {r : OpRow} (hr : r ∈ opcodeTable) (hop : i.opcode = r.op) (w : Word) :
    w &&& r.mask = r.matchBits ↔ field w 31 24 = i.opcode ∧ field w i.reserved.1 i.reserved.2 = 0 := by
  obtain ⟨hmask, hmatch⟩ := row_bits i r hr hop
  obtain ⟨hlo, hhi⟩ := reserved_bounds i
  rw [hmask, hmatch, and_opcodeMask_or_fieldMask_eq_iff w (opcode_lt i) hlo hhi]

theorem matches_row_iff_decodes {r : OpRow} (hr : r ∈ opcodeTable) (w : Word) :
    w &&& r.mask = r.matchBits ↔ ∃ i, decode w = .ok i ∧ i.mnemonic = r.mnemonic := by
  constructor
  · intro hmatch
    obtain ⟨i, hop, hoperands⟩ := exists_operandsIn w r hr
    obtain ⟨hopcode, hzero⟩ := (matches_row_iff hr hop w).mp hmatch
    exact ⟨i, decode_of_fieldsOf ⟨hopcode, hzero, hoperands⟩, (mnemonic_eq_iff i r hr).mpr hop⟩
  · rintro ⟨i, hdecode, hmnemonic⟩
    obtain ⟨hopcode, hzero, _⟩ := fieldsOf_of_decode hdecode
    exact (matches_row_iff hr ((mnemonic_eq_iff i r hr).mp hmnemonic) w).mpr ⟨hopcode, hzero⟩

/-- Settles O3: a row's mask keeps the opcode and the reserved bits, which together say whether the decoder accepts the word. -/
theorem wordMatchesRowIffItDecodesToIt : Obligations.WordMatchesRowIffItDecodesToIt :=
  fun _ hr w => matches_row_iff_decodes hr w

theorem decode_eq_error_of_no_match {w : Word} (h : ∀ r ∈ opcodeTable, w &&& r.mask ≠ r.matchBits) :
    ∃ e, decode w = .error e := by
  cases hw : decode w with
  | error e => exact ⟨e, rfl⟩
  | ok i =>
    obtain ⟨r, hr, hop⟩ := exists_row i
    exact absurd ((matches_row_iff_decodes hr w).mpr ⟨i, hw, (mnemonic_eq_iff i r hr).mpr hop⟩) (h r hr)

end Sys2Proof
end

section
/-! What a command and a step always do: they complete, the step consumes one host action (R100, R247); and which error a
command raises (R98, R211, R214). -/

namespace Sys2Proof.Machine

open Sys2Proof

/-! ### Illegal words -/

theorem executeWord_illegal {w : Word} (h : ∀ r ∈ opcodeTable, w &&& r.mask ≠ r.matchBits) {s : State} (hs : s.err = false) :
    executeWord w s = .next (s.raise .illegalCmd) := by
  obtain ⟨e, he⟩ := decode_eq_error_of_no_match h
  rw [executeWord_of_decode_error he, command_operandError _ _ _ hs]

/-- Settles O4: the decoder rejects the word, and the prelude raises `ILLEGAL_CMD`. -/
theorem unmatchedWordRaisesIllegalCmd : Obligations.UnmatchedWordRaisesIllegalCmd := by
  intro s w rest hs hw
  rw [step_cons, perform_memWrite, memWrite_cmd, executeWord_illegal hw (s := { s with script := rest }) hs]
  rfl

/-! ### Completion -/

theorem exec_completes (i : Instr) (s : State) : ∃ t, exec i s = .next t ∧ t.script = s.script := by
  obtain ⟨t, ht⟩ := command_next (operandErrorOf i) (stateErrorOf s i) (fun s => effectOf s i) s
  rw [← exec_eq_command] at ht
  refine ⟨t, ht, ?_⟩
  calc t.script = (Spec.touched i s t).script := congrArg _ (exec_eq_touched ht)
    _ = s.script := by cases i <;> simp only [Spec.touched]

theorem executeWord_completes (w : Word) (s : State) : ∃ t, executeWord w s = .next t ∧ t.script = s.script := by
  cases hw : decode w with
  | ok i =>
    rw [executeWord_of_decode hw]
    exact exec_completes i s
  | error e =>
    rw [executeWord_of_decode_error hw]
    cases hs : s.err with
    | true => exact ⟨s, command_ignored _ _ _ _ hs, rfl⟩
    | false => exact ⟨_, command_operandError _ _ _ hs _, rfl⟩

/-- Only a write to `CMD` runs something; every other write stores, resets or is refused. -/
theorem writeReg_completes (v : Word) (s : State) (r : Reg) : ∃ t, writeReg v s r = .next t ∧ t.script = s.script := by
  cases r with
  | cmd =>
    obtain ⟨t, ht, hscript⟩ := executeWord_completes v s
    exact ⟨t.respond .ok, answered_eq_next.mpr ⟨t, ht, rfl⟩, hscript⟩
  | ctrl =>
    refine ⟨_, rfl, ?_⟩
    cases hv : v.getLsbD 0 with
    | true => rw [writeCtrl_of_bit_set hv]; rfl
    | false => rw [writeCtrl_of_bit_clear hv]; rfl
  | _ => exact ⟨_, rfl, rfl⟩

theorem perform_completes (a : HostAction) (s : State) : ∃ t, perform a s = .next t ∧ t.script = s.script := by
  cases a with
  | reset => exact ⟨_, rfl, rfl⟩
  | memRead addr width => exact ⟨_, rfl, rfl⟩
  | memWrite addr width v =>
    rw [perform_memWrite]
    cases hr : target addr width with
    | none => exact ⟨_, memWrite_of_no_target hr v s, rfl⟩
    | some r =>
      rw [memWrite_of_target hr]
      exact writeReg_completes v s r

/-- Settles O7: with an action waiting it is performed on the state without it, and completes; with none the step is idle. -/
theorem everyStepCompletes : Obligations.EveryStepCompletes := by
  intro s
  cases hs : s.script with
  | nil => exact ⟨s, step_of_script_nil hs, hs⟩
  | cons a rest =>
    rw [step_of_script_cons hs]
    exact perform_completes a { s with script := rest }

/-! ### The table of errors -/

theorem indexError_eq_ite_nodup (a b c d : Fin 16) :
    indexError a b c d = if [a, b, c, d].Nodup then none else some .qrAlias := by
  have hnodup : [a, b, c, d].Nodup ↔ ¬(a = b ∨ a = c ∨ a = d ∨ b = c ∨ b = d ∨ c = d) := by
    simp [not_or, and_assoc]
  simp only [indexError, hnodup, ite_not]

/-- The model's two checks, in their order, are the spec's table. -/
theorem errorOf_eq_checks (i : Instr) (s : State) :
    Spec.errorOf i s.rphase = (operandErrorOf i).or (stateErrorOf s i) := by
  cases i with
  | cqr a b c d | sqr a b c d =>
    simp only [Spec.errorOf, operandErrorOf, stateErrorOf, indexError_eq_ite_nodup, Option.or_none]
  | cxcrypt len => simp only [Spec.errorOf, operandErrorOf, stateErrorOf, lengthError, Option.or_none]
  | kxor off len => simp only [Spec.errorOf, operandErrorOf, stateErrorOf, rangeError, Option.or_none]
  | rxcrypt len =>
    simp only [Spec.errorOf, operandErrorOf, stateErrorOf, lengthError, needsContext]
    split <;> rfl
  | rksa keylen =>
    simp only [Spec.errorOf, operandErrorOf, stateErrorOf, keylenError, needsFresh, ne_eq, ite_not]
    split <;> rfl
  | _ => rfl

theorem exec_raises {i : Instr} {s : State} (hs : s.err = false) {code : ErrCode}
    (h : (operandErrorOf i).or (stateErrorOf s i) = some code) : exec i s = .next (s.raise code) := by
  rw [exec_eq_command]
  rcases Option.or_eq_some_iff.mp h with ho | ⟨ho, ht⟩
  · rw [ho, command_operandError _ _ _ hs]
  · rw [ho, ht, command_stateError _ _ hs]

/-- Settles O14: the table is the model's two checks in their order; where both pass the effect leaves the error flags. -/
theorem errorsAreTheTableInItsOrder : Obligations.ErrorsAreTheTableInItsOrder := by
  intro i s hs
  rw [errorOf_eq_checks]
  refine ⟨fun code hcode => exec_raises hs hcode, fun hnone => ?_⟩
  obtain ⟨ho, ht⟩ := Option.or_eq_none_iff.mp hnone
  exact ⟨_, exec_effect hs ho ht, (effectOf_err s i).trans hs, effectOf_errcode s i⟩

end Sys2Proof.Machine
end

section
/-! The pseudo-instructions of R102: sequences of quarter-round commands that make up a double round. -/

namespace Sys2Proof.Machine

open Sys2Proof

/-! ### While `ERR = 1` -/

theorem exec_ignored (i : Instr) {s : State} (hs : s.err = true) : exec i s = .next s := by
  rw [exec_eq_command, command_ignored _ _ _ _ hs]

theorem runCommands_ignored (is : List Instr) {s : State} (hs : s.err = true) : runCommands is s = .next s := by
  induction is with
  | nil => rfl
  | cons i is ih => rw [runCommands_cons (exec_ignored i hs), ih]

/-! ### Sequences of quarter-rounds -/

theorem quarterRounds_append (f : Quarter) (first later : List Group) (v : Bank) :
    quarterRounds f (first ++ later) v = quarterRounds f later (quarterRounds f first v) :=
  List.foldl_append

/-- Where `mk g` is a command that does the quarter-round `f` on the group `g`, a list of such commands does the list's
quarter-rounds, if none of its groups raises. -/
theorem runCommands_quarterRounds {mk : Group → Instr} {f : Quarter} (hstate : ∀ g s, stateErrorOf s (mk g) = none)
    (heffect : ∀ g (s : State), effectOf s (mk g) = { s with x := quarterAt f s.x g })
    {groups : List Group} (hgroups : ∀ g ∈ groups, operandErrorOf (mk g) = none) {s : State} (hs : s.err = false) :
    runCommands (groups.map mk) s = .next { s with x := quarterRounds f groups s.x } := by
  induction groups generalizing s with
  | nil => rfl
  | cons g groups ih =>
    obtain ⟨hg, hrest⟩ := List.forall_mem_cons.mp hgroups
    rw [List.map_cons, runCommands_cons (exec_effect hs hg (hstate g s)), heffect]
    exact ih hrest hs

/-- `CQR` on a group. -/
def cqrOn (g : Group) : Instr := .cqr g.1 g.2.1 g.2.2.1 g.2.2.2

/-- `SQR` on a group. -/
def sqrOn (g : Group) : Instr := .sqr g.1 g.2.1 g.2.2.1 g.2.2.2

theorem chacha_groups_distinct : ∀ g ∈ chachaColumns ++ chachaDiagonals, operandErrorOf (cqrOn g) = none := by
  simp [chachaColumns, chachaDiagonals, cqrOn, operandErrorOf, indexError]

theorem salsa_groups_distinct : ∀ g ∈ salsaColumns ++ salsaRows, operandErrorOf (sqrOn g) = none := by
  simp [salsaColumns, salsaRows, sqrOn, operandErrorOf, indexError]

theorem runCommands_ccols_cdiags {s : State} (hs : s.err = false) : runCommands (ccols ++ cdiags) s = .next (cdrEffect s) :=
  calc runCommands (ccols ++ cdiags) s
    _ = runCommands ((chachaColumns ++ chachaDiagonals).map cqrOn) s := rfl
    _ = .next { s with x := quarterRounds cqr (chachaColumns ++ chachaDiagonals) s.x } :=
      runCommands_quarterRounds (fun _ _ => rfl) (fun _ _ => rfl) chacha_groups_distinct hs
    _ = .next (cdrEffect s) := by rw [quarterRounds_append, cdrEffect, chachaDoubleRound]

theorem runCommands_scols_srows {s : State} (hs : s.err = false) : runCommands (scols ++ srows) s = .next (sdrEffect s) :=
  calc runCommands (scols ++ srows) s
    _ = runCommands ((salsaColumns ++ salsaRows).map sqrOn) s := rfl
    _ = .next { s with x := quarterRounds sqr (salsaColumns ++ salsaRows) s.x } :=
      runCommands_quarterRounds (fun _ _ => rfl) (fun _ _ => rfl) salsa_groups_distinct hs
    _ = .next (sdrEffect s) := by rw [quarterRounds_append, sdrEffect, salsaDoubleRound]

/-- Settles O28: while `ERR = 1` every command is ignored; otherwise the eight quarter-rounds are those of the double round. -/
theorem pseudoInstructionsMakeTheDoubleRounds : Obligations.PseudoInstructionsMakeTheDoubleRounds := by
  intro s
  cases hs : s.err with
  | true =>
    exact ⟨(runCommands_ignored _ hs).trans (exec_ignored _ hs).symm,
      (runCommands_ignored _ hs).trans (exec_ignored _ hs).symm⟩
  | false =>
    exact ⟨(runCommands_ccols_cdiags hs).trans (exec_effect (i := .cdr) hs rfl rfl).symm,
      (runCommands_scols_srows hs).trans (exec_effect (i := .sdr) hs rfl rfl).symm⟩

end Sys2Proof.Machine
end

section
/-! The word engine on plain numbers (R122 to R126, R152 to R154): each bank operation, read through `Spec.words`, is the
operation that the rule writes on numbers. Stated for any quarter-round and any double round. -/

namespace Sys2Proof.Machine

open Sys2Proof

/-! ### The words of a bank -/

theorem words_of_lt (v : Bank) {n : Nat} (h : n < 16) : Spec.words v n = v[n].toNat := dif_pos h

theorem words_of_ge (v : Bank) {n : Nat} (h : 16 ≤ n) : Spec.words v n = 0 := dif_neg (Nat.not_lt.mpr h)

theorem words_fin (v : Bank) (n : Fin 16) : Spec.words v n.val = v[n].toNat := words_of_lt v n.isLt

theorem toNat_add (a b : Word) : (a + b).toNat = Spec.add a.toNat b.toNat := BitVec.toNat_add a b

/-- Word-for-word addition on numbers (R122). -/
theorem words_addBanks (a b : Bank) (n : Nat) :
    Spec.words (addBanks a b) n = Spec.add (Spec.words a n) (Spec.words b n) := by
  rcases Nat.lt_or_ge n 16 with h | h
  · simp only [words_of_lt _ h, addBanks_getElem, toNat_add]
  · rw [words_of_ge _ h, words_of_ge _ h, words_of_ge _ h]
    rfl

/-! ### Quarter-rounds -/

/-- `g` is the quarter-round `f` on plain numbers. -/
def Quarter.ComputesOnNumbers (f : Quarter) (g : Nat → Nat → Nat → Nat → Nat × Nat × Nat × Nat) : Prop :=
  ∀ a b c d : Word, g a.toNat b.toNat c.toNat d.toNat =
    ((f a b c d).1.toNat, (f a b c d).2.1.toNat, (f a b c d).2.2.1.toNat, (f a b c d).2.2.2.toNat)

/-- The group's words take the four results in their order, every other word stays, and past the bank there is nothing. -/
theorem words_quarterAt {f : Quarter} {g : Nat → Nat → Nat → Nat → Nat × Nat × Nat × Nat} (hfg : f.ComputesOnNumbers g)
    (v : Bank) {a b c d : Fin 16} (h : [a, b, c, d].Nodup) :
    Spec.words (quarterAt f v (a, b, c, d)) = Spec.quarter g a.val b.val c.val d.val (Spec.words v) := by
  have hdistinct : (a ≠ b ∧ a ≠ c ∧ a ≠ d) ∧ (b ≠ c ∧ b ≠ d) ∧ c ≠ d := by simpa using h
  obtain ⟨⟨hab, hac, had⟩, ⟨hbc, hbd⟩, hcd⟩ := hdistinct
  have hgroup := quarterAt_group f v a b c d hab hac had hbc hbd hcd
  funext n
  simp only [Spec.quarter, words_fin, hfg v[a] v[b] v[c] v[d], ← hgroup]
  split_ifs with ha hb hc hd
  · rw [ha, words_fin]
  · rw [hb, words_fin]
  · rw [hc, words_fin]
  · rw [hd, words_fin]
  · rcases Nat.lt_or_ge n 16 with hn | hn
    · have hother : (⟨n, hn⟩ : Fin 16) ∉ [a, b, c, d] := by simp [Fin.ext_iff, ha, hb, hc, hd]
      rw [words_of_lt _ hn, words_of_lt _ hn]
      exact congrArg BitVec.toNat (quarterAt_of_not_mem f v hother)
    · rw [words_of_ge _ hn, words_of_ge _ hn]

/-! ### Blocks -/

/-- A block function is on numbers what its double round is (R126, R154). -/
theorem words_blockFunction {doubleRound : Bank → Bank} {numberRound : (Nat → Nat) → Nat → Nat}
    (h : ∀ v, Spec.words (doubleRound v) = numberRound (Spec.words v)) (v : Bank) :
    Spec.words (blockFunction doubleRound v) = Spec.block numberRound (Spec.words v) := by
  have hiterate : Spec.words (doubleRound^[10] v) = numberRound^[10] (Spec.words v) := Function.Semiconj.iterate_right h 10 v
  funext n
  rw [blockFunction, words_addBanks, hiterate, Spec.block]

/-- `ser` on numbers (R14). -/
theorem toNat_ser_getElem (b : Bank) {k : Nat} (h : k < 64) :
    ((ser b)[k]'(by rwa [ser_length])).toNat = Spec.serByte (Spec.words b) k := by
  rw [ser_getElem, byteOf_toNat, Spec.serByte, words_of_lt]

/-! ### A command's word and its count of blocks -/

/-- The opcode byte and the operands are separate summands of an encoded command (R101). -/
theorem encode_eq_add {i : Instr} {op : Nat} (h : i.opcode = op) :
    encode i = BitVec.ofNat 32 (op * 2 ^ 24) + BitVec.ofNat 32 i.operandBits := by
  rw [encode, h, BitVec.ofNat_add]

/-- The count of blocks on numbers (R220). -/
theorem toNat_countBlocks (n : Nat) (s : State) : (s.countBlocks n).nblk.toNat = (s.nblk.toNat + n) % 2 ^ 32 := by
  rw [State.countBlocks_nblk, BitVec.toNat_add, BitVec.toNat_ofNat, Nat.add_mod_mod]

end Sys2Proof.Machine
end

section
/-! The word-engine commands `XCOPY`, `XADD` and the ChaCha20 commands up to `CBLOCK` (R121 to R127). -/

namespace Sys2Proof.Machine

open Sys2Proof

/-- Settles O21: `XCOPY` has no check, and its effect writes `X`. -/
theorem xcopyCopiesTheBank : Obligations.XcopyCopiesTheBank :=
  ⟨rfl, fun _ hs => exec_effect (i := .xcopy) hs rfl rfl⟩

/-- Settles O22: the sum of two banks has the sums of their words. -/
theorem xaddAddsWordForWord : Obligations.XaddAddsWordForWord := by
  refine ⟨rfl, fun s hs => ⟨_, exec_effect (i := .xadd) hs rfl rfl, fun n => ?_, rfl⟩⟩
  calc (addBanks s.x s.st)[n].toNat
    _ = (s.x[n] + s.st[n]).toNat := congrArg BitVec.toNat (addBanks_getElem s.x s.st n.val n.isLt)
    _ = (s.x[n].toNat + s.st[n].toNat) % 2 ^ 32 := BitVec.toNat_add ..

/-! ### The initial state -/

theorem bytes_of_ge {m k : Nat} (b : Vector Byte m) (h : m ≤ k) : Spec.bytes b k = 0 := dif_neg (Nat.not_lt.mpr h)

/-- The sixteen words of the initial state, and nothing past them (R127). -/
theorem words_chachaInit (key : Vector Byte 32) (nonce : Vector Byte 12) (counter : Word) :
    Spec.words (chachaInit key nonce counter) =
      Spec.chachaInit (Spec.bytes key) (Spec.bytes nonce) counter.toNat := by
  funext n
  rcases Nat.lt_or_ge n 16 with h | h
  · rw [words_of_lt _ h]
    interval_cases n <;> simp [chachaInit, Spec.chachaInit, packedWord_toNat]
  · rw [words_of_ge _ h]
    simp (disch := omega) only [Spec.chachaInit, if_neg, Spec.le, bytes_of_ge]

/-- Settles O23: the words that `CINIT` writes are those of the rule. -/
theorem cinitBuildsTheInitialState : Obligations.CinitBuildsTheInitialState :=
  ⟨rfl, fun s hs => ⟨_, exec_effect (i := .cinit) hs rfl rfl,
    fun n _ => congrFun (words_chachaInit s.key s.nonce s.ctr) n, rfl⟩⟩

/-! ### Quarter-round, double round and block -/

theorem cqr_computesOnNumbers : Quarter.ComputesOnNumbers cqr Spec.cqr := by
  intro a b c d
  simp only [Spec.cqr, cqr, toNat_add, BitVec.toNat_xor, toNat_rotl32, Nat.reduceLT]

/-- Settles O24: an index that occurs twice is the command's operand error; without one the quarter-round is done. -/
theorem cqrAppliesTheQuarterRound : Obligations.CqrAppliesTheQuarterRound := by
  intro s a b c d hs
  refine ⟨encode_eq_add (op := 0x12) rfl, fun h => exec_raises hs ?_, fun h => ?_⟩
  · simp only [operandErrorOf, stateErrorOf, indexError_eq_ite_nodup, if_neg h, Option.or_none]
  · have hcheck : operandErrorOf (.cqr a b c d) = none := by simp only [operandErrorOf, indexError_eq_ite_nodup, if_pos h]
    exact ⟨_, exec_effect hs hcheck rfl, fun n _ => congrFun (words_quarterAt cqr_computesOnNumbers s.x h) n, rfl⟩

/-- The eight groups of R125, one after the other. -/
theorem words_chachaDoubleRound (v : Bank) : Spec.words (chachaDoubleRound v) = Spec.chachaDoubleRound (Spec.words v) := by
  simp only [chachaDoubleRound, quarterRounds, chachaColumns, chachaDiagonals, List.foldl_cons, List.foldl_nil]
  iterate 8 rw [words_quarterAt cqr_computesOnNumbers _ (by decide)]
  rfl

/-- Settles O25: the double round on `X`, on numbers. -/
theorem cdrIsColumnsThenDiagonals : Obligations.CdrIsColumnsThenDiagonals :=
  ⟨rfl, fun s hs => ⟨_, exec_effect (i := .cdr) hs rfl rfl, fun n _ => congrFun (words_chachaDoubleRound s.x) n, rfl⟩⟩

theorem words_chachaBlock (v : Bank) : Spec.words (chachaBlock v) = Spec.block Spec.chachaDoubleRound (Spec.words v) :=
  words_blockFunction words_chachaDoubleRound v

/-- Settles O26: the block of `ST`, on numbers, and the count. -/
theorem cblockComputesTheBlock : Obligations.CblockComputesTheBlock :=
  ⟨rfl, fun s hs => ⟨_, exec_effect (i := .cblock) hs rfl rfl, fun n _ => congrFun (words_chachaBlock s.st) n,
    toNat_countBlocks 1 _, rfl⟩⟩

end Sys2Proof.Machine
end

section
/-! `CXCRYPT` (R128, R129): what it writes in and past the counter range, and that it is its own inverse (R131). -/

namespace Sys2Proof.Machine

open Sys2Proof

/-! ### The two cases of the effect -/

theorem counterInRange_eq_true {ctr : Word} {len : Nat} : counterInRange ctr len = true ↔ Spec.counterFits ctr len := by
  rw [counterInRange, Bool.or_eq_true, decide_eq_true_eq, decide_eq_true_eq, Spec.counterFits, ceilDiv64]
  omega

theorem cxcryptEffect_of_fits {s : State} {len : Nat} (h : Spec.counterFits s.ctr len) :
    cxcryptEffect len s = { s with data := cxcryptData len s }.countBlocks (ceilDiv64 len) :=
  if_pos (counterInRange_eq_true.mpr h)

theorem cxcryptEffect_of_not_fits {s : State} {len : Nat} (h : ¬Spec.counterFits s.ctr len) :
    cxcryptEffect len s =
      { s with data := freeData len s.freeCount s.data, freeCount := s.freeCount + len }.countBlocks (ceilDiv64 len) :=
  if_neg (mt counterInRange_eq_true.mp h)

theorem exec_cxcrypt {s : State} (hs : s.err = false) {len : Nat} (hlen : len ≤ 256) :
    exec (.cxcrypt len) s = .next (cxcryptEffect len s) :=
  exec_effect hs (if_neg (Nat.not_lt.mpr hlen)) rfl

/-- Settles O30: past the range the effect draws free bytes below `len` only. -/
theorem cxcryptPastTheCounterRangeRuns : Obligations.CxcryptPastTheCounterRangeRuns := by
  intro s len hs hlen hpast
  refine ⟨_, exec_cxcrypt hs hlen, ?_⟩
  rw [cxcryptEffect_of_not_fits hpast]
  exact ⟨toNat_countBlocks _ _, fun k hk => freeData_getElem_of_le len _ _ k.val k.isLt hk, rfl⟩

/-! ### The keystream on numbers -/

/-- A keystream byte on numbers, for a block whose counter does not wrap (R128). -/
theorem toNat_chachaKeystream_getElem {s : State} {b m : Nat} (hb : s.ctr.toNat + b < 2 ^ 32) (hm : m < 64) :
    ((chachaKeystream s b)[m]'(by rwa [chachaKeystream, ser_length])).toNat =
      Spec.serByte (Spec.block Spec.chachaDoubleRound
        (Spec.chachaInit (Spec.bytes s.key) (Spec.bytes s.nonce) (s.ctr.toNat + b))) m := by
  have hctr : (s.ctr + BitVec.ofNat 32 b).toNat = s.ctr.toNat + b := by
    rw [BitVec.toNat_add, BitVec.toNat_ofNat, Nat.add_mod_mod, Nat.mod_eq_of_lt hb]
  simp only [chachaKeystream, toNat_ser_getElem _ hm, words_chachaBlock, words_chachaInit, hctr]

theorem bytes_cxcryptData {s : State} {len k : Nat} (hfits : Spec.counterFits s.ctr len) (hk : k < 256) :
    Spec.bytes (cxcryptData len s) k =
      if k < len then
        Spec.bytes s.data k ^^^
          Spec.serByte (Spec.block Spec.chachaDoubleRound
            (Spec.chachaInit (Spec.bytes s.key) (Spec.bytes s.nonce) (s.ctr.toNat + k / 64))) (k % 64)
      else Spec.bytes s.data k := by
  rw [bytes_of_lt _ hk, bytes_of_lt _ hk, cxcryptData_getElem]
  split_ifs with hlen
  · have hblock : s.ctr.toNat + k / 64 < 2 ^ 32 := by
      unfold Spec.counterFits at hfits
      omega
    rw [BitVec.toNat_xor, toNat_chachaKeystream_getElem hblock (Nat.mod_lt k (by decide))]
  · rfl

/-- Settles O29: a length above 256 is the command's operand error; in the counter range each byte below `len` meets its
keystream byte. -/
theorem cxcryptXorsTheKeystream : Obligations.CxcryptXorsTheKeystream := by
  intro s len hs
  refine ⟨fun hlen => exec_raises hs ?_, fun _ => encode_eq_add (op := 0x16) rfl, fun hlen hfits => ?_⟩
  · simp only [operandErrorOf, stateErrorOf, lengthError, if_pos hlen, Option.or_none]
  · refine ⟨_, exec_cxcrypt hs hlen, ?_⟩
    rw [cxcryptEffect_of_fits hfits]
    exact ⟨fun k hk => bytes_cxcryptData hfits hk, toNat_countBlocks _ _, rfl⟩

/-! ### Twice -/

/-- The keystream depends on `KEY`, `NONCE` and `CTR`, which `CXCRYPT` leaves, so the second XOR undoes the first. -/
theorem cxcryptData_twice {s t : State} {len : Nat} (hdata : t.data = cxcryptData len s)
    (hkeystream : chachaKeystream t = chachaKeystream s) : cxcryptData len t = s.data := by
  ext k hk : 1
  simp only [cxcryptData_getElem, hdata, hkeystream]
  split_ifs
  · rw [BitVec.xor_assoc, BitVec.xor_self, BitVec.xor_zero]
  · rfl

theorem cxcryptEffect_twice {s : State} {len : Nat} (hfits : Spec.counterFits s.ctr len) :
    cxcryptEffect len (cxcryptEffect len s) = { s with nblk := s.nblk + BitVec.ofNat 32 (2 * ceilDiv64 len) } := by
  have hfirst := cxcryptEffect_of_fits hfits
  have hdata : cxcryptData len (cxcryptEffect len s) = s.data := by
    rw [hfirst]
    exact cxcryptData_twice rfl rfl
  have hfits' : Spec.counterFits (cxcryptEffect len s).ctr len := by
    rw [hfirst]
    exact hfits
  rw [cxcryptEffect_of_fits hfits', hdata, hfirst]
  simp only [State.countBlocks, BitVec.add_assoc, ← BitVec.ofNat_add, ← Nat.two_mul]

/-- Settles O31: the data is restored, and the two counts add up. -/
theorem cxcryptTwiceRestoresTheData : Obligations.CxcryptTwiceRestoresTheData := by
  intro s len hs hlen hfits
  calc runCommands [.cxcrypt len, .cxcrypt len] s
    _ = runCommands [.cxcrypt len] (cxcryptEffect len s) := runCommands_cons (exec_cxcrypt hs hlen)
    _ = .next (cxcryptEffect len (cxcryptEffect len s)) :=
      runCommands_cons (exec_cxcrypt ((effectOf_err s (.cxcrypt len)).trans hs) hlen)
    _ = .next { s with nblk := s.nblk + BitVec.ofNat 32 (2 * ((len + 63) / 64)) } := by
      rw [cxcryptEffect_twice hfits, ceilDiv64]

end Sys2Proof.Machine
end

section
/-! Blocks from smaller commands (R126, R130, R154): copy, ten double rounds, addition; and `CINIT`, `CBLOCK`, `KXOR`. -/

namespace Sys2Proof.Machine

open Sys2Proof

/-! ### Copy, double rounds, addition -/

theorem runCommands_replicate {i : Instr} {f : Bank → Bank}
    (hi : ∀ s : State, s.err = false → exec i s = .next { s with x := f s.x }) (n : Nat) (is : List Instr) {s : State}
    (hs : s.err = false) : runCommands (List.replicate n i ++ is) s = runCommands is { s with x := f^[n] s.x } := by
  induction n generalizing s with
  | zero => rfl
  | succ n ih =>
    rw [List.replicate_succ, List.cons_append, runCommands_cons (hi s hs)]
    exact ih hs

/-- `XCOPY`, ten double rounds, `XADD` make the block of `ST` in `X` (R130 (b)). -/
theorem runCommands_copy_rounds_add {i : Instr} {f : Bank → Bank}
    (hi : ∀ s : State, s.err = false → exec i s = .next { s with x := f s.x }) {s : State} (hs : s.err = false) :
    runCommands (.xcopy :: (List.replicate 10 i ++ [.xadd])) s = .next { s with x := blockFunction f s.st } :=
  calc runCommands (.xcopy :: (List.replicate 10 i ++ [.xadd])) s
    _ = runCommands (List.replicate 10 i ++ [.xadd]) { s with x := s.st } :=
      runCommands_cons (exec_effect (i := .xcopy) hs rfl rfl)
    _ = runCommands [.xadd] { s with x := f^[10] s.st } := runCommands_replicate hi 10 [.xadd] hs
    _ = .next { s with x := blockFunction f s.st } := runCommands_cons (exec_effect (i := .xadd) hs rfl rfl)

/-- Settles O27: the commands without the count, for each algorithm's double round. -/
theorem blockIsCopyTenDoubleRoundsAdd : Obligations.BlockIsCopyTenDoubleRoundsAdd := fun _ hs =>
  ⟨⟨_, runCommands_copy_rounds_add (fun _ h => exec_effect (i := .cdr) h rfl rfl) hs,
      exec_effect (i := .cblock) hs rfl rfl⟩,
    ⟨_, runCommands_copy_rounds_add (fun _ h => exec_effect (i := .sdr) h rfl rfl) hs,
      exec_effect (i := .sblock) hs rfl rfl⟩⟩

/-! ### The zero state -/

/-- The bank of sixteen zeros. -/
def zeroBank : Bank := Vector.replicate 16 0

theorem zeroBank_getElem (n : Fin 16) : zeroBank[n] = 0 := Vector.getElem_replicate ..

theorem eq_zeroBank {v : Bank} (h : ∀ n : Fin 16, v[n] = 0) : v = zeroBank := by
  ext n hn : 1
  exact (h ⟨n, hn⟩).trans (zeroBank_getElem ⟨n, hn⟩).symm

/-- A quarter-round that fixes the zero quadruple fixes the zero bank. -/
theorem quarterAt_zeroBank {f : Quarter} (hf : f 0 0 0 0 = (0, 0, 0, 0)) (g : Group) : quarterAt f zeroBank g = zeroBank := by
  have hset : ∀ n : Fin 16, zeroBank.set n 0 = zeroBank := fun _ => Vector.set_replicate_self
  simp only [quarterAt, zeroBank_getElem, hf, hset]

theorem quarterRounds_zeroBank {f : Quarter} (hf : f 0 0 0 0 = (0, 0, 0, 0)) (groups : List Group) :
    quarterRounds f groups zeroBank = zeroBank :=
  List.foldl_fixed' (quarterAt_zeroBank hf) groups

theorem blockFunction_zeroBank {f : Bank → Bank} (hf : f zeroBank = zeroBank) : blockFunction f zeroBank = zeroBank := by
  rw [blockFunction, Function.iterate_fixed hf]
  exact eq_zeroBank fun n => by simp [zeroBank]

theorem chachaBlock_zeroBank : chachaBlock zeroBank = zeroBank :=
  blockFunction_zeroBank (by rw [chachaDoubleRound, quarterRounds_zeroBank (by decide), quarterRounds_zeroBank (by decide)])

theorem salsaBlock_zeroBank : salsaBlock zeroBank = zeroBank :=
  blockFunction_zeroBank (by rw [salsaDoubleRound, quarterRounds_zeroBank (by decide), quarterRounds_zeroBank (by decide)])

/-- Settles O37: both quarter-rounds fix the zero quadruple, so both blocks of the zero bank are zero. -/
theorem zeroStateGivesTheZeroBlock : Obligations.ZeroStateGivesTheZeroBlock := by
  intro s hs hst
  have hzero : s.st = zeroBank := eq_zeroBank hst
  have hchacha : cblockEffect s = { s with x := zeroBank, nblk := s.nblk + 1 } := by
    rw [cblockEffect, hzero, chachaBlock_zeroBank]
    rfl
  have hsalsa : sblockEffect s = { s with x := zeroBank, nblk := s.nblk + 1 } := by
    rw [sblockEffect, hzero, salsaBlock_zeroBank]
    rfl
  exact ⟨_, (exec_effect (i := .sblock) hs rfl rfl).trans (congrArg _ hsalsa),
    (exec_effect (i := .cblock) hs rfl rfl).trans (congrArg _ hchacha), zeroBank_getElem, rfl, rfl⟩

/-! ### One block of a `CXCRYPT` -/

/-- `DATA` after the first `n` blocks of a `CXCRYPT len`. -/
def dataAfterBlocks (len n : Nat) (s : State) : Vector Byte 256 :=
  (List.range n).foldl
    (fun data b => combine data (64 * b) ((chachaKeystream s b).take (min 64 (len - 64 * b)))) s.data

theorem cxcryptData_eq_dataAfterBlocks (len : Nat) (s : State) : cxcryptData len s = dataAfterBlocks len (ceilDiv64 len) s :=
  rfl

theorem dataAfterBlocks_succ (len n : Nat) (s : State) :
    dataAfterBlocks len (n + 1) s =
      combine (dataAfterBlocks len n s) (64 * n) ((chachaKeystream s n).take (min 64 (len - 64 * n))) := by
  rw [dataAfterBlocks, List.range_succ, List.foldl_append]
  rfl

theorem chachaKeystream_zero (s : State) : chachaKeystream s 0 = ser (chachaBlock (chachaInit s.key s.nonce s.ctr)) := by
  rw [chachaKeystream, BitVec.add_zero]

/-- A `CXCRYPT` of at most 64 bytes is one block, that of counter `CTR`, or for `len = 0` none. -/
theorem cxcryptData_of_le_64 {len : Nat} (hlen : len ≤ 64) (s : State) :
    cxcryptData len s = combine s.data 0 ((ser (chachaBlock (chachaInit s.key s.nonce s.ctr))).take len) := by
  rcases Nat.eq_zero_or_pos len with rfl | hpos
  · exact (combine_nil ..).symm
  · have hone : ceilDiv64 len = 1 := by unfold ceilDiv64; omega
    rw [cxcryptData_eq_dataAfterBlocks, hone, dataAfterBlocks_succ, chachaKeystream_zero, Nat.mul_zero, Nat.sub_zero,
      Nat.min_eq_right hlen]
    rfl

/-- Settles O32: one block always fits the counter range, and its keystream is the block that `CINIT` and `CBLOCK` leave in `X`. -/
theorem cinitCblockKxorIsCxcrypt : Obligations.CinitCblockKxorIsCxcrypt := by
  intro s len hs hlen
  have hfits : Spec.counterFits s.ctr len := by
    have hctr := s.ctr.isLt
    unfold Spec.counterFits
    omega
  have hrange : rangeError 0 len = none := if_neg (by omega)
  refine ⟨_, kxorEffect 0 len (cblockEffect (cinitEffect s)), exec_cxcrypt hs (by omega), ?_, ?_⟩
  · calc runCommands [.cinit, .cblock, .kxor 0 len] s
      _ = runCommands [.cblock, .kxor 0 len] (cinitEffect s) := runCommands_cons (exec_effect (i := .cinit) hs rfl rfl)
      _ = runCommands [.kxor 0 len] (cblockEffect (cinitEffect s)) := runCommands_cons (exec_effect (i := .cblock) hs rfl rfl)
      _ = .next (kxorEffect 0 len (cblockEffect (cinitEffect s))) :=
        runCommands_cons (exec_effect (i := .kxor 0 len) hs hrange rfl)
  · rw [cxcryptEffect_of_fits hfits, cxcryptData_of_le_64 hlen]
    rfl

end Sys2Proof.Machine
end

section
/-! Both quarter-rounds are bijections (R123, R151): each is a sequence of steps that change one or two of the four words by
an operation that the others undo. -/

namespace Sys2Proof.Machine

open Sys2Proof

/-- Four words, the arguments and the results of a quarter-round. -/
abbrev Quadruple := Word × Word × Word × Word

theorem rotl32_injective {n : Nat} (hn : n < 32) : Function.Injective fun v => rotl32 v n := by
  intro v w (h : rotl32 v n = rotl32 w n)
  refine BitVec.eq_of_getLsbD_eq fun i hi => ?_
  rw [← getLsbD_rotl32 v hn hi, h, getLsbD_rotl32 w hn hi]

/-- A quarter of the ChaCha20 quarter-round: `a <- a + b; d <- rotl32(d ^ a, n)`, and then the pairs change places (R123). -/
def cqrStep (n : Nat) (q : Quadruple) : Quadruple :=
  let a := q.1 + q.2.1
  (q.2.2.1, rotl32 (q.2.2.2 ^^^ a) n, a, q.2.1)

/-- A quarter of the Salsa20 quarter-round: `b <- b ^ rotl32(a + d, n)`, and then each word moves on by one place (R151). -/
def sqrStep (n : Nat) (q : Quadruple) : Quadruple :=
  (q.2.1 ^^^ rotl32 (q.1 + q.2.2.2) n, q.2.2.1, q.2.2.2, q.1)

theorem cqrStep_injective {n : Nat} (hn : n < 32) : Function.Injective (cqrStep n) := by
  rintro ⟨a, b, c, d⟩ ⟨a', b', c', d'⟩ h
  simp only [cqrStep, Prod.mk.injEq] at h
  obtain ⟨rfl, hd, ha, rfl⟩ := h
  obtain rfl : a = a' := (BitVec.add_left_inj b).mp ha
  obtain rfl : d = d' := (BitVec.xor_left_inj (a + b)).mp (rotl32_injective hn hd)
  rfl

theorem sqrStep_injective (n : Nat) : Function.Injective (sqrStep n) := by
  rintro ⟨a, b, c, d⟩ ⟨a', b', c', d'⟩ h
  simp only [sqrStep, Prod.mk.injEq] at h
  obtain ⟨hb, rfl, rfl, rfl⟩ := h
  obtain rfl : b = b' := (BitVec.xor_left_inj (rotl32 (a + d) n)).mp hb
  rfl

theorem cqr_eq_steps (q : Quadruple) : cqr q.1 q.2.1 q.2.2.1 q.2.2.2 = cqrStep 7 (cqrStep 8 (cqrStep 12 (cqrStep 16 q))) := rfl

theorem sqr_eq_steps (q : Quadruple) : sqr q.1 q.2.1 q.2.2.1 q.2.2.2 = sqrStep 18 (sqrStep 13 (sqrStep 9 (sqrStep 7 q))) := rfl

/-- Settles O38: every step is injective, and an injective function on the finitely many quadruples is a bijection. -/
theorem quarterRoundsAreBijections : Obligations.QuarterRoundsAreBijections := by
  simp only [Obligations.QuarterRoundsAreBijections, cqr_eq_steps, sqr_eq_steps]
  exact
    ⟨Finite.injective_iff_bijective.mp
      ((cqrStep_injective (n := 7) (by decide)).comp ((cqrStep_injective (n := 8) (by decide)).comp
        ((cqrStep_injective (n := 12) (by decide)).comp (cqrStep_injective (n := 16) (by decide))))),
    Finite.injective_iff_bijective.mp
      ((sqrStep_injective 18).comp ((sqrStep_injective 13).comp ((sqrStep_injective 9).comp (sqrStep_injective 7))))⟩

end Sys2Proof.Machine
end

section
/-! A host script of single blocks (R130 (d), R103): what one block's actions leave, and by induction all of them. -/

namespace Sys2Proof.Machine

open Sys2Proof

/-! ### Runs of the machine -/

theorem run_succ {k : Nat} {s t : State} (h : step s = .next t) :
    Host.Core.run Sys2Proof.core (k + 1) s = Host.Core.run Sys2Proof.core k t := by
  have hstep : Sys2Proof.core.step s = .next t := h
  simp only [Host.Core.run, hstep]

theorem run_add {m n : Nat} {s t : State} (h : Host.Core.run Sys2Proof.core m s = .next t) :
    Host.Core.run Sys2Proof.core (m + n) s = Host.Core.run Sys2Proof.core n t := by
  induction m generalizing s with
  | zero =>
    cases h
    rw [Nat.zero_add]
  | succ m ih =>
    obtain ⟨u, hu, -⟩ := everyStepCompletes s
    rw [run_succ hu] at h
    rw [Nat.succ_add, run_succ hu, ih h]

/-! ### The actions of one block -/

theorem perform_wr_ctr (v : Word) (s : State) :
    perform (wr 0x00C v) s = .next ({ s with ctr := v }.respond .ok) := rfl

/-- A host's command, encoded, runs as that command. -/
theorem step_of_script_cmd {i : Instr} {s : State} {rest : List HostAction} (hscript : s.script = cmd i :: rest)
    (hwf : i.wf = true) (hs : s.err = false) (ho : operandErrorOf i = none)
    (ht : stateErrorOf { s with script := rest } i = none) :
    step s = .next ((effectOf { s with script := rest } i).respond .ok) := by
  have hexec : exec i { s with script := rest } = .next (effectOf { s with script := rest } i) := exec_effect hs ho ht
  rw [step_of_script_cons hscript, cmd, wr, perform_memWrite, memWrite_cmd,
    executeWord_of_decode (decodeOfEncodedCommand i hwf), hexec]
  rfl

/-- The host's actions for block `b` of a `CXCRYPT len` that starts at counter `ctr`. -/
def blockActions (ctr : Word) (len b : Nat) : List HostAction :=
  [wr 0x00C (ctr + BitVec.ofNat 32 b), cmd .cinit, cmd .cblock, cmd (.kxor (64 * b) (min 64 (len - 64 * b)))]

theorem blockScript_eq_flatMap (ctr : Word) (len : Nat) :
    Spec.blockScript ctr len = (List.range (ceilDiv64 len)).flatMap (blockActions ctr len) := rfl

/-- The four actions leave block `b` of the keystream combined into `DATA`, and one block counted. -/
theorem run_blockActions {ctr : Word} {len b : Nat} {s : State} {rest : List HostAction}
    (hscript : s.script = blockActions ctr len b ++ rest) (hs : s.err = false) (hb : 64 * b < len) (hlen : len ≤ 256) :
    Host.Core.run Sys2Proof.core 4 s = .next
      { s with
        ctr := ctr + BitVec.ofNat 32 b
        st := chachaInit s.key s.nonce (ctr + BitVec.ofNat 32 b)
        x := chachaBlock (chachaInit s.key s.nonce (ctr + BitVec.ofNat 32 b))
        data := combine s.data (64 * b)
          ((ser (chachaBlock (chachaInit s.key s.nonce (ctr + BitVec.ofNat 32 b)))).take (min 64 (len - 64 * b)))
        nblk := s.nblk + 1
        script := rest
        responses := .ok :: .ok :: .ok :: .ok :: s.responses } := by
  -- The last block may be short, and ends where the `CXCRYPT` does.
  have hwf : (Instr.kxor (64 * b) (min 64 (len - 64 * b))).wf = true := by
    simp only [Instr.wf, Bool.and_eq_true, decide_eq_true_eq]
    omega
  have hrange : rangeError (64 * b) (min 64 (len - 64 * b)) = none := if_neg (by omega)
  refine Eq.trans (run_succ ((step_of_script_cons hscript).trans (perform_wr_ctr _ _))) ?_
  refine Eq.trans (run_succ (step_of_script_cmd (i := .cinit) rfl rfl hs rfl rfl)) ?_
  refine Eq.trans (run_succ (step_of_script_cmd (i := .cblock) rfl rfl hs rfl rfl)) ?_
  refine Eq.trans (run_succ (step_of_script_cmd (i := .kxor _ _) rfl hwf hs hrange rfl)) ?_
  rfl

/-! ### The whole script -/

/-- After the actions of the first `n` blocks `DATA` and `NBLK` are those of `n` blocks of the `CXCRYPT`, and of the rest only
what the actions overwrite has changed. -/
theorem run_blocks {s : State} (hs : s.err = false) {len : Nat} (hlen : len ≤ 256) {n : Nat} (hn : n ≤ ceilDiv64 len)
    (rest : List HostAction) :
    ∃ st x ctr responses,
      Host.Core.run Sys2Proof.core (4 * n) { s with script := (List.range n).flatMap (blockActions s.ctr len) ++ rest } =
        .next { s with
          st := st, x := x, ctr := ctr, script := rest, responses := responses
          data := dataAfterBlocks len n s, nblk := s.nblk + BitVec.ofNat 32 n } := by
  induction n generalizing rest with
  | zero => exact ⟨s.st, s.x, s.ctr, s.responses, by simp [Host.Core.run, dataAfterBlocks]⟩
  | succ n ih =>
    have hb : 64 * n < len := by
      unfold ceilDiv64 at hn
      omega
    obtain ⟨st, x, ctr, responses, hrun⟩ := ih (by omega) (blockActions s.ctr len n ++ rest)
    have hscript : (List.range (n + 1)).flatMap (blockActions s.ctr len) ++ rest =
        (List.range n).flatMap (blockActions s.ctr len) ++ (blockActions s.ctr len n ++ rest) := by
      simp [List.range_succ]
    rw [hscript, Nat.mul_succ, run_add hrun, dataAfterBlocks_succ, BitVec.ofNat_add, ← BitVec.add_assoc]
    exact ⟨_, _, _, _, run_blockActions rfl hs hb hlen⟩

/-- Settles O33: all blocks of the script make the data and the count of the `CXCRYPT`. -/
theorem hostScriptOfBlocksIsCxcrypt : Obligations.HostScriptOfBlocksIsCxcrypt := by
  intro s len hs hlen hfits
  obtain ⟨st, x, ctr, responses, hrun⟩ := run_blocks hs hlen (Nat.le_refl (ceilDiv64 len)) []
  rw [List.append_nil, ← blockScript_eq_flatMap, ← cxcryptData_eq_dataAfterBlocks] at hrun
  refine ⟨_, _, exec_cxcrypt hs hlen, hrun, ?_⟩
  rw [cxcryptEffect_of_fits hfits]
  rfl

end Sys2Proof.Machine
end

section
/-! The Salsa20 commands `SQR`, `SDR` and `SBLOCK` (R151 to R154) on plain numbers. -/

namespace Sys2Proof.Machine

open Sys2Proof

theorem sqr_computesOnNumbers : Quarter.ComputesOnNumbers sqr Spec.sqr := by
  intro a b c d
  simp only [Spec.sqr, sqr, toNat_add, BitVec.toNat_xor, toNat_rotl32, Nat.reduceLT]

/-! ### `SQR` -/

/-- The only check of `SQR` is that its indices are distinct (R124, R152). -/
theorem operandErrorOf_sqr (a b c d : Fin 16) :
    operandErrorOf (.sqr a b c d) = if [a, b, c, d].Nodup then none else some .qrAlias :=
  indexError_eq_ite_nodup a b c d

theorem operandErrorOf_sqr_eq_none {a b c d : Fin 16} : operandErrorOf (.sqr a b c d) = none ↔ [a, b, c, d].Nodup := by
  simp only [operandErrorOf_sqr, ite_eq_left_iff, reduceCtorEq, imp_false, not_not]

/-- Settles O34: the check either raises or lets the quarter-round run. -/
theorem sqrAppliesTheQuarterRound : Obligations.SqrAppliesTheQuarterRound := by
  intro s a b c d hs
  refine ⟨encode_eq_add (op := 0x22) rfl, fun halias => ?_, fun hdistinct => ?_⟩
  · have hraise : operandErrorOf (.sqr a b c d) = some .qrAlias := (operandErrorOf_sqr a b c d).trans (if_neg halias)
    exact exec_raises hs (congrArg (Option.or · none) hraise)
  · exact ⟨_, exec_effect hs (operandErrorOf_sqr_eq_none.mpr hdistinct) rfl,
      fun n _ => congrFun (words_quarterAt sqr_computesOnNumbers s.x hdistinct) n, rfl⟩

/-! ### Double round and block -/

/-- The rule's quarter-round on the words that a group names. -/
def quarterOnNumbers (f : Nat → Nat → Nat → Nat → Nat × Nat × Nat × Nat) (w : Nat → Nat) (g : Group) : Nat → Nat :=
  Spec.quarter f g.1.val g.2.1.val g.2.2.1.val g.2.2.2.val w

/-- Quarter-rounds on groups of distinct words, one after the other, are on numbers the rule's quarter-rounds in that order. -/
theorem words_quarterRounds {f : Quarter} {g : Nat → Nat → Nat → Nat → Nat × Nat × Nat × Nat} (hfg : f.ComputesOnNumbers g)
    {groups : List Group} (hgroups : ∀ p ∈ groups, [p.1, p.2.1, p.2.2.1, p.2.2.2].Nodup) (v : Bank) :
    Spec.words (quarterRounds f groups v) = groups.foldl (quarterOnNumbers g) (Spec.words v) := by
  induction groups generalizing v with
  | nil => rfl
  | cons p groups ih =>
    obtain ⟨hp, hrest⟩ := List.forall_mem_cons.mp hgroups
    have hfirst : Spec.words (quarterAt f v p) = quarterOnNumbers g (Spec.words v) p := words_quarterAt hfg v hp
    rw [List.foldl_cons, ← hfirst]
    exact ih hrest (quarterAt f v p)

/-- The four columns, then the four rows (R153). -/
theorem words_salsaDoubleRound (v : Bank) : Spec.words (salsaDoubleRound v) = Spec.salsaDoubleRound (Spec.words v) :=
  calc Spec.words (salsaDoubleRound v)
    _ = Spec.words (quarterRounds sqr (salsaColumns ++ salsaRows) v) := by rw [quarterRounds_append, salsaDoubleRound]
    _ = (salsaColumns ++ salsaRows).foldl (quarterOnNumbers Spec.sqr) (Spec.words v) :=
      words_quarterRounds sqr_computesOnNumbers (fun p hp => operandErrorOf_sqr_eq_none.mp (salsa_groups_distinct p hp)) v
    _ = Spec.salsaDoubleRound (Spec.words v) := rfl

/-- Settles O35: `SDR` has no check, and its effect is the double round on `X`. -/
theorem sdrIsColumnsThenRows : Obligations.SdrIsColumnsThenRows :=
  ⟨rfl, fun s hs => ⟨_, exec_effect (i := .sdr) hs rfl rfl, fun n _ => congrFun (words_salsaDoubleRound s.x) n, rfl⟩⟩

theorem words_salsaBlock (v : Bank) : Spec.words (salsaBlock v) = Spec.block Spec.salsaDoubleRound (Spec.words v) :=
  words_blockFunction words_salsaDoubleRound v

/-- Settles O36: `SBLOCK` has no check, and its effect is the block of `ST` and one more block counted. -/
theorem sblockComputesTheBlock : Obligations.SblockComputesTheBlock := by
  refine ⟨rfl, fun s hs => ⟨sblockEffect s, exec_effect (i := .sblock) hs rfl rfl, fun n _ => ?_, ?_, rfl⟩⟩
  · exact congrFun (words_salsaBlock s.st) n
  · exact toNat_countBlocks 1 { s with x := salsaBlock s.st }

end Sys2Proof.Machine
end

section
/-! The outcomes of the RC4 commands: each command's effect when its checks pass, the error when one does not, and
the fields that the effects write and leave (R171 to R176). -/

namespace Sys2Proof.Machine

open Sys2Proof

/-! ### Checks and outcomes -/

theorem exec_operandError {i : Instr} {s : State} (hs : s.err = false) {code : ErrCode} (ho : operandErrorOf i = some code) :
    exec i s = .next (s.raise code) :=
  exec_raises hs (Option.or_eq_some_iff.mpr (.inl ho))

theorem exec_stateError {i : Instr} {s : State} (hs : s.err = false) {code : ErrCode} (ho : operandErrorOf i = none)
    (ht : stateErrorOf s i = some code) : exec i s = .next (s.raise code) :=
  exec_raises hs (Option.or_eq_some_iff.mpr (.inr ⟨ho, ht⟩))

theorem lengthError_eq_none {len : Nat} (h : len ≤ 256) : lengthError len = none := if_neg (Nat.not_lt.mpr h)

theorem keylenError_eq_none {keylen : Nat} (hpos : 1 ≤ keylen) (hle : keylen ≤ 256) : keylenError keylen = none :=
  if_neg (by omega)

section

variable {s : State} (hs : s.err = false) {keylen len : Nat}

include hs

theorem exec_rksa (hpos : 1 ≤ keylen) (hle : keylen ≤ 256) (hphase : s.rphase = .uninit) :
    exec (.rksa keylen) s = .next (rksaEffect keylen s) :=
  exec_effect hs (keylenError_eq_none hpos hle) (needsFresh_eq_none.mpr hphase)

theorem exec_rksa_of_context (hpos : 1 ≤ keylen) (hle : keylen ≤ 256) (hphase : s.rphase ≠ .uninit) :
    exec (.rksa keylen) s = .next (s.raise .rc4Phase) :=
  exec_stateError hs (keylenError_eq_none hpos hle) (if_neg hphase)

theorem exec_rnext (hphase : s.rphase ≠ .uninit) : exec .rnext s = .next (rnextEffect s) :=
  exec_effect hs rfl (needsContext_eq_none.mpr hphase)

theorem exec_rnext_of_no_context (hphase : s.rphase = .uninit) : exec .rnext s = .next (s.raise .rc4Phase) :=
  exec_stateError hs rfl (if_pos hphase)

theorem exec_rxcrypt (hlen : len ≤ 256) (hphase : s.rphase ≠ .uninit) :
    exec (.rxcrypt len) s = .next (rxcryptEffect len s) :=
  exec_effect hs (lengthError_eq_none hlen) (needsContext_eq_none.mpr hphase)

theorem exec_rxcrypt_of_no_context (hlen : len ≤ 256) (hphase : s.rphase = .uninit) :
    exec (.rxcrypt len) s = .next (s.raise .rc4Phase) :=
  exec_stateError hs (lengthError_eq_none hlen) (if_pos hphase)

theorem exec_rdrop : exec .rdrop s = .next (rdropEffect s) := exec_effect hs rfl rfl

end

/-! ### What the effects leave in a field -/

@[simp] theorem rksaEffect_context (keylen : Nat) (s : State) :
    (rksaEffect keylen s).context = ⟨keySchedule s.rkey keylen, 0, 0⟩ := rfl
-- `rfl` would unfold the key schedule here before the projection.
@[simp] theorem rksaEffect_err (keylen : Nat) (s : State) : (rksaEffect keylen s).err = s.err := by simp only [rksaEffect]
@[simp] theorem rksaEffect_rkey (keylen : Nat) (s : State) : (rksaEffect keylen s).rkey = s.rkey := by simp only [rksaEffect]
@[simp] theorem rksaEffect_data (keylen : Nat) (s : State) : (rksaEffect keylen s).data = s.data := by simp only [rksaEffect]
@[simp] theorem rksaEffect_nbyte (keylen : Nat) (s : State) : (rksaEffect keylen s).nbyte = s.nbyte := by simp only [rksaEffect]
@[simp] theorem rnextEffect_context (s : State) : (rnextEffect s).context = (prgaStep s.context).2 := rfl
@[simp] theorem rnextEffect_ksb (s : State) : (rnextEffect s).ksb = (prgaStep s.context).1 := rfl
@[simp] theorem rxcryptEffect_err (len : Nat) (s : State) : (rxcryptEffect len s).err = s.err := rfl
@[simp] theorem rxcryptEffect_rkey (len : Nat) (s : State) : (rxcryptEffect len s).rkey = s.rkey := rfl
@[simp] theorem rxcryptEffect_data (len : Nat) (s : State) :
    (rxcryptEffect len s).data = combine s.data 0 (prgaBytes len s.context).1 := rfl
@[simp] theorem rxcryptEffect_nbyte (len : Nat) (s : State) :
    (rxcryptEffect len s).nbyte = s.nbyte + BitVec.ofNat 32 len := rfl
@[simp] theorem rdropEffect_err (s : State) : (rdropEffect s).err = s.err := rfl
@[simp] theorem rdropEffect_rkey (s : State) : (rdropEffect s).rkey = s.rkey := rfl
@[simp] theorem rdropEffect_data (s : State) : (rdropEffect s).data = s.data := rfl
@[simp] theorem rdropEffect_nbyte (s : State) : (rdropEffect s).nbyte = s.nbyte := rfl

end Sys2Proof.Machine
end

section
/-! The key schedule and `RKSA` (R172) on plain numbers, and which bytes of `RKEY` the schedule reads (R177 (a)). -/

namespace Sys2Proof.Machine

open Sys2Proof

/-! ### Bytes and swaps on numbers -/

theorem toNat_byteAt (v : Vector Byte 256) (b : Byte) : (byteAt v b).toNat = Spec.bytes v b.toNat :=
  (bytes_of_lt v b.isLt).symm

theorem bytes_swapBytes (v : Vector Byte 256) (p q : Byte) :
    Spec.bytes (swapBytes v p q) = Spec.swap (Spec.bytes v) p.toNat q.toNat := by
  funext k
  rw [Spec.swap, ← toNat_byteAt, ← toNat_byteAt]
  rcases Nat.lt_or_ge k 256 with hk | hk
  · rw [bytes_of_lt _ hk, bytes_of_lt _ hk, swapBytes_getElem, apply_ite BitVec.toNat, apply_ite BitVec.toNat]
  · have hp : k ≠ p.toNat := by have := p.isLt; omega
    have hq : k ≠ q.toNat := by have := q.isLt; omega
    rw [bytes_of_ge _ hk, bytes_of_ge _ hk, if_neg hp, if_neg hq]

/-! ### The loop of the key schedule -/

/-- The loop's variables in the model and on numbers: the same `j`, and the same `S` at the 256 positions that exist (outside
them the rule's identity array goes on, and `Spec.bytes` does not). -/
def KsaAgrees (sj : Vector Byte 256 × Byte) (wj : (Nat → Nat) × Nat) : Prop :=
  (∀ k, k < 256 → Spec.bytes sj.1 k = wj.1 k) ∧ sj.2.toNat = wj.2

theorem identityPerm_ksaAgrees : KsaAgrees (identityPerm, 0) (fun n => n, 0) := by
  refine ⟨fun k hk => ?_, rfl⟩
  rw [bytes_of_lt _ hk, identityPerm, Vector.getElem_ofFn, BitVec.toNat_ofNat, Nat.mod_eq_of_lt hk]

theorem ksaStep_ksaAgrees (rkey : Vector Byte 256) (keylen : Nat) (n : Fin 256) {sj : Vector Byte 256 × Byte}
    {wj : (Nat → Nat) × Nat} (h : KsaAgrees sj wj) :
    KsaAgrees (ksaStep rkey keylen sj n) (Spec.ksaStep (Spec.bytes rkey) keylen wj n.val) := by
  obtain ⟨hperm, hj⟩ := h
  have hkey : n.val % keylen < 256 := Nat.lt_of_le_of_lt (Nat.mod_le _ _) n.isLt
  have hsum : (ksaStep rkey keylen sj n).2.toNat = (Spec.ksaStep (Spec.bytes rkey) keylen wj n.val).2 := by
    simp only [ksaStep, Spec.ksaStep, ← hperm n.val n.isLt, ← hj, bytes_of_lt _ n.isLt, bytes_of_lt _ hkey,
      BitVec.toNat_add, Nat.mod_add_mod, Fin.getElem_fin]
  refine ⟨fun k hk => ?_, hsum⟩
  have hlt : (ksaStep rkey keylen sj n).2.toNat < 256 := BitVec.isLt _
  calc Spec.bytes (ksaStep rkey keylen sj n).1 k
    _ = Spec.swap (Spec.bytes sj.1) n.val (ksaStep rkey keylen sj n).2.toNat k := congrFun (bytes_swapBytes _ _ _) k
    _ = Spec.swap wj.1 n.val (ksaStep rkey keylen sj n).2.toNat k := by
      simp only [Spec.swap, hperm _ hlt, hperm _ n.isLt, hperm _ hk]
    _ = (Spec.ksaStep (Spec.bytes rkey) keylen wj n.val).1 k := by
      rw [hsum]
      rfl

theorem bytes_keySchedule (rkey : Vector Byte 256) (keylen : Nat) {k : Nat} (hk : k < 256) :
    Spec.bytes (keySchedule rkey keylen) k = Spec.ksa (Spec.bytes rkey) keylen k := by
  have hloop : KsaAgrees ((List.finRange 256).foldl (ksaStep rkey keylen) (identityPerm, 0))
      ((List.finRange 256).foldl (fun wj n => Spec.ksaStep (Spec.bytes rkey) keylen wj n.val) (fun n => n, 0)) :=
    List.foldl_rel identityPerm_ksaAgrees fun n _ _ _ h => ksaStep_ksaAgrees rkey keylen n h
  rw [Spec.ksa, ← List.map_coe_finRange_eq_range, List.foldl_map]
  exact hloop.1 k hk

/-- Settles O39: the model's loop and the rule's agree iteration by iteration, and swaps keep a permutation. -/
theorem rksaSchedulesTheKey : Obligations.RksaSchedulesTheKey := by
  intro s keylen hs
  refine ⟨fun hlen => exec_operandError hs (if_pos hlen), fun _ _ => encode_eq_add (op := 0x30) rfl,
    fun hpos hle hphase => exec_rksa_of_context hs hpos hle hphase, fun hpos hle hphase => ?_⟩
  exact ⟨_, exec_rksa hs hpos hle hphase, fun k hk => bytes_keySchedule s.rkey keylen hk,
    keySchedule_isPermutation s.rkey keylen, rfl⟩

/-! ### The bytes of `RKEY` that are read -/

/-- Every iteration reads `RKEY` at an index reduced modulo `keylen`. -/
theorem ksaStep_congr {rkey rkey' : Vector Byte 256} {keylen : Nat} (hpos : 1 ≤ keylen)
    (h : ∀ k, k < keylen → Spec.bytes rkey k = Spec.bytes rkey' k) : ksaStep rkey keylen = ksaStep rkey' keylen := by
  funext sj n
  have hlt : n.val % keylen < 256 := Nat.lt_of_le_of_lt (Nat.mod_le _ _) n.isLt
  have hbyte : rkey[n.val % keylen] = rkey'[n.val % keylen] := by
    apply BitVec.eq_of_toNat_eq
    rw [← bytes_of_lt rkey hlt, ← bytes_of_lt rkey' hlt]
    exact h _ (Nat.mod_lt _ hpos)
  simp only [ksaStep, hbyte]

/-- Settles O40: on two keys that agree below `keylen` every iteration of the schedule is the same. -/
theorem rksaReadsOnlyTheKeyBytes : Obligations.RksaReadsOnlyTheKeyBytes := by
  intro s s' keylen hs hs' hphase hphase' hpos hle hkey
  refine ⟨_, _, exec_rksa hs hpos hle hphase, exec_rksa hs' hpos hle hphase', ?_⟩
  change keySchedule s.rkey keylen = keySchedule s'.rkey keylen
  rw [keySchedule, keySchedule, ksaStep_congr hpos hkey]

end Sys2Proof.Machine
end

section
/-! `RNEXT` and `RXCRYPT` (R173 to R175): one PRGA step on plain numbers, and the keystream as a run of `RNEXT`s. -/

namespace Sys2Proof.Machine

open Sys2Proof

/-! ### One step -/

/-- The count of bytes on numbers (R220). -/
theorem toNat_countBytes (n : Nat) (s : State) : (s.countBytes n).nbyte.toNat = (s.nbyte.toNat + n) % 2 ^ 32 := by
  rw [State.countBytes_nbyte, BitVec.toNat_add, BitVec.toNat_ofNat, Nat.add_mod_mod]

theorem toNat_prgaStep_i (c : Rc4Context) : (prgaStep c).2.i.toNat = (c.i.toNat + 1) % 256 := BitVec.toNat_add ..

theorem toNat_prgaStep_j (c : Rc4Context) :
    (prgaStep c).2.j.toNat = (c.j.toNat + Spec.bytes c.perm (prgaStep c).2.i.toNat) % 256 := by
  rw [← toNat_byteAt]
  exact BitVec.toNat_add ..

theorem bytes_prgaStep_perm (c : Rc4Context) :
    Spec.bytes (prgaStep c).2.perm = Spec.swap (Spec.bytes c.perm) (prgaStep c).2.i.toNat (prgaStep c).2.j.toNat :=
  bytes_swapBytes ..

theorem toNat_prgaStep_byte (c : Rc4Context) :
    (prgaStep c).1.toNat = Spec.bytes (prgaStep c).2.perm
      ((Spec.bytes (prgaStep c).2.perm (prgaStep c).2.i.toNat +
        Spec.bytes (prgaStep c).2.perm (prgaStep c).2.j.toNat) % 256) := by
  rw [← toNat_byteAt, ← toNat_byteAt, ← BitVec.toNat_add, ← toNat_byteAt]
  rfl

/-- Settles O41: without a context the phase check raises; with one the state takes the PRGA step, variable by variable. -/
theorem rnextIsOnePrgaStep : Obligations.RnextIsOnePrgaStep := by
  refine ⟨rfl, fun s hs => ⟨fun hphase => exec_rnext_of_no_context hs hphase, fun hphase => ?_⟩⟩
  exact ⟨_, exec_rnext hs hphase, toNat_prgaStep_i s.context, toNat_prgaStep_j s.context,
    fun k _ => congrFun (bytes_prgaStep_perm s.context) k, toNat_prgaStep_byte s.context, toNat_countBytes 1 s, rfl⟩

/-! ### Successive steps -/

theorem rnextEffect_iterate_context (n : Nat) (s : State) :
    (rnextEffect^[n] s).context = (prgaBytes n s.context).2 := by
  induction n generalizing s with
  | zero => rfl
  | succ n ih => rw [Function.iterate_succ_apply, ih, rnextEffect_context, prgaBytes]

/-- Keystream byte `k` is the byte of one step from the context that the first `k` steps leave. -/
theorem prgaBytes_getElem {n k : Nat} (hk : k < n) (c : Rc4Context) :
    (prgaBytes n c).1[k]'(by rwa [prgaBytes_length]) = (prgaStep (prgaBytes k c).2).1 := by
  induction k generalizing n c with
  | zero =>
    cases n with
    | zero => omega
    | succ n => rfl
  | succ k ih =>
    cases n with
    | zero => omega
    | succ n => exact ih (by omega) (prgaStep c).2

/-- The `(k+1)`-th of successive `RNEXT`s leaves keystream byte `k` in `KSB`. -/
theorem rnextEffect_iterate_ksb {n k : Nat} (hk : k < n) (s : State) :
    (rnextEffect^[k + 1] s).ksb = (prgaBytes n s.context).1[k]'(by rwa [prgaBytes_length]) := by
  rw [Function.iterate_succ_apply', rnextEffect_ksb, rnextEffect_iterate_context, prgaBytes_getElem hk]

/-- A context stays one, and no step raises. -/
theorem rnextEffect_iterate_runs {s : State} (hs : s.err = false) (hphase : s.rphase ≠ .uninit) (n : Nat) :
    (rnextEffect^[n] s).err = false ∧ (rnextEffect^[n] s).rphase ≠ .uninit := by
  induction n generalizing s with
  | zero => exact ⟨hs, hphase⟩
  | succ n ih => exact ih ((effectOf_err s .rnext).trans hs) (fun h => nomatch h)

/-! ### `RXCRYPT` -/

theorem rxcryptEffect_data_getElem (len : Nat) (s : State) (k : Fin 256) :
    (rxcryptEffect len s).data[k] = if k.val < len then s.data[k] ^^^ (rnextEffect^[k.val + 1] s).ksb else s.data[k] := by
  simp only [rxcryptEffect_data, Fin.getElem_fin, combine_getElem, prgaBytes_length, Nat.zero_le, true_and, Nat.sub_zero]
  by_cases hk : k.val < len
  · simp only [hk, dif_pos, if_pos, rnextEffect_iterate_ksb hk]
  · simp only [hk, dif_neg, if_neg, not_false_iff]

/-- `RXCRYPT` on any phase that holds a context, in the form of R175's frame. -/
theorem rxcryptEffect_frame (len : Nat) (s : State) :
    rxcryptEffect len s =
      { s with
        data := (rxcryptEffect len s).data, perm := (rnextEffect^[len] s).perm, ri := (rnextEffect^[len] s).ri,
        rj := (rnextEffect^[len] s).rj, rphase := if len = 0 then s.rphase else .streaming,
        nbyte := (rxcryptEffect len s).nbyte } := by
  have hcontext := rnextEffect_iterate_context len s
  have hperm : (rnextEffect^[len] s).perm = (prgaBytes len s.context).2.perm := congrArg Rc4Context.perm hcontext
  have hi : (rnextEffect^[len] s).ri = (prgaBytes len s.context).2.i := congrArg Rc4Context.i hcontext
  have hj : (rnextEffect^[len] s).rj = (prgaBytes len s.context).2.j := congrArg Rc4Context.j hcontext
  have hphase : (if len = 0 then s.rphase else .streaming) = if 1 ≤ len then .streaming else s.rphase := by
    simp only [Nat.one_le_iff_ne_zero, ne_eq, ite_not]
  rw [hperm, hi, hj, hphase]
  rfl

/-- Settles O42: the successive `RNEXT`s are the iterates of that command's effect, whose bytes and contexts are those `RXCRYPT`
uses. -/
theorem rxcryptUsesTheNextKeystreamBytes : Obligations.RxcryptUsesTheNextKeystreamBytes := by
  intro s len hs
  refine ⟨fun hlen => exec_operandError hs (if_pos hlen), fun _ => encode_eq_add (op := 0x32) rfl,
    fun hlen hphase => exec_rxcrypt_of_no_context hs hlen hphase, fun hlen hphase => ?_⟩
  have hrnext : ∀ k, exec .rnext (rnextEffect^[k] s) = .next (rnextEffect^[k + 1] s) := by
    intro k
    obtain ⟨herr, hcontext⟩ := rnextEffect_iterate_runs hs hphase k
    rw [exec_rnext herr hcontext, Function.iterate_succ_apply']
  exact ⟨_, fun k => rnextEffect^[k] s, exec_rxcrypt hs hlen hphase, rfl, hrnext, rxcryptEffect_data_getElem len s,
    toNat_countBytes len s, rxcryptEffect_frame len s⟩

end Sys2Proof.Machine
end

section
/-! Dropping a context (R176), the phases (R171), and a session with its inverse (R177 (c)). -/

namespace Sys2Proof.Machine

open Sys2Proof

/-! ### `RDROP` -/

/-- Without a context everything that `RDROP` zeroes is zero already (R40, R44, R176). -/
theorem State.Inv.rdropEffect_eq_self {s : State} (hs : s.Inv) (hphase : s.rphase = .uninit) : Machine.rdropEffect s = s := by
  obtain ⟨hri, hrj, hksb⟩ := hs.notStreaming (by simp [hphase])
  have hperm := hs.fresh hphase
  cases s
  simp_all only [Machine.rdropEffect]

/-- Settles O43: `RDROP` has no check of its own; the invariant says what a state without a context holds. -/
theorem rdropDiscardsTheContext : Obligations.RdropDiscardsTheContext :=
  ⟨rfl, fun _ hs => ⟨_, exec_rdrop hs, fun k => Vector.getElem_replicate k.isLt, rfl, State.Inv.rdropEffect_eq_self⟩⟩

/-! ### Phases -/

theorem rxcryptEffect_rphase_eq (len : Nat) (s : State) :
    (rxcryptEffect len s).rphase = if len = 0 then s.rphase else .streaming :=
  congrArg State.rphase (rxcryptEffect_frame len s)

theorem effectOf_rphase {i : Instr} (h : Spec.rc4Command i = false) (s : State) : (effectOf s i).rphase = s.rphase :=
  congrArg (fun fields => fields.2.2.1) (effectOf_invFields h s)

/-- No effect whose state check passes leads from `STREAMING` to `SCHEDULED`: only `RKSA` makes that phase, and it wants
`UNINIT`. -/
theorem effectOf_rphase_ne_scheduled {i : Instr} {s : State} (h : stateErrorOf s i = none) (hphase : s.rphase = .streaming) :
    (effectOf s i).rphase ≠ .scheduled := by
  cases i with
  | rksa keylen => exact nomatch hphase.symm.trans (needsFresh_eq_none.mp h)
  | rnext | rdrop => exact fun h => nomatch h
  | rxcrypt len =>
    have hstays : (rxcryptEffect len s).rphase = .streaming := by rw [rxcryptEffect_rphase_eq, hphase, ite_self]
    exact ne_of_eq_of_ne hstays (by decide)
  | _ => exact ne_of_eq_of_ne (Eq.trans (effectOf_rphase rfl s) hphase) (by decide)

/-- Settles O44: the phase that each effect makes, the check that raises, and for the last entry every outcome of a command. -/
theorem phasesFollowTheTable : Obligations.PhasesFollowTheTable := by
  intro s hs
  refine ⟨fun keylen hpos hle => ⟨fun hphase => ⟨_, exec_rksa hs hpos hle hphase, rfl⟩, exec_rksa_of_context hs hpos hle⟩,
    exec_rnext_of_no_context hs, fun hphase => ⟨_, exec_rnext hs hphase, rfl⟩,
    fun len hlen => ⟨exec_rxcrypt_of_no_context hs hlen,
      fun hphase => ⟨_, exec_rxcrypt hs hlen hphase, rxcryptEffect_rphase_eq len s⟩⟩,
    ⟨_, exec_rdrop hs, rfl⟩, fun i t hexec hphase => ?_⟩
  rcases exec_cases hexec with ⟨_, rfl⟩ | ⟨_, code, _, rfl⟩ | ⟨_, _, hstate, rfl⟩
  · simp [hphase]
  · simp [hphase]
  · exact effectOf_rphase_ne_scheduled hstate hphase

/-! ### A session and its inverse -/

/-- `RKSA`, then `RXCRYPT`: a session on a fresh context. -/
def sessionEffect (keylen len : Nat) (s : State) : State := rxcryptEffect len (rksaEffect keylen s)

@[simp] theorem sessionEffect_err (keylen len : Nat) (s : State) : (sessionEffect keylen len s).err = s.err := by
  rw [sessionEffect, rxcryptEffect_err, rksaEffect_err]

@[simp] theorem sessionEffect_rkey (keylen len : Nat) (s : State) : (sessionEffect keylen len s).rkey = s.rkey := by
  rw [sessionEffect, rxcryptEffect_rkey, rksaEffect_rkey]

@[simp] theorem sessionEffect_data (keylen len : Nat) (s : State) :
    (sessionEffect keylen len s).data = combine s.data 0 (prgaBytes len ⟨keySchedule s.rkey keylen, 0, 0⟩).1 := by
  rw [sessionEffect, rxcryptEffect_data, rksaEffect_data, rksaEffect_context]

@[simp] theorem sessionEffect_nbyte (keylen len : Nat) (s : State) :
    (sessionEffect keylen len s).nbyte = s.nbyte + BitVec.ofNat 32 len := by
  rw [sessionEffect, rxcryptEffect_nbyte, rksaEffect_nbyte]

theorem runCommands_session {s : State} (hs : s.err = false) (hphase : s.rphase = .uninit) {keylen len : Nat}
    (hpos : 1 ≤ keylen) (hle : keylen ≤ 256) (hlen : len ≤ 256) (is : List Instr) :
    runCommands (.rksa keylen :: .rxcrypt len :: is) s = runCommands is (sessionEffect keylen len s) := by
  have hcontext : (rksaEffect keylen s).rphase ≠ .uninit := fun h => nomatch h
  rw [runCommands_cons (exec_rksa hs hpos hle hphase),
    runCommands_cons (exec_rxcrypt ((rksaEffect_err keylen s).trans hs) hlen hcontext), sessionEffect]

/-- Settles O45: both sessions start from the same context, since nothing writes `RKEY`, so they XOR the same bytes. -/
theorem rc4SessionRoundTrip : Obligations.Rc4SessionRoundTrip := by
  intro s keylen len hs hphase hpos hle hlen
  have herr : (sessionEffect keylen len s).err = false := (sessionEffect_err keylen len s).trans hs
  refine ⟨sessionEffect keylen len (rdropEffect (sessionEffect keylen len s)), ?_, ?_, ?_, ?_, ?_⟩
  · calc runCommands [.rksa keylen, .rxcrypt len, .rdrop, .rksa keylen, .rxcrypt len] s
      _ = runCommands [.rdrop, .rksa keylen, .rxcrypt len] (sessionEffect keylen len s) :=
        runCommands_session hs hphase hpos hle hlen _
      _ = runCommands [.rksa keylen, .rxcrypt len] (rdropEffect (sessionEffect keylen len s)) :=
        runCommands_cons (exec_rdrop herr)
      _ = .next (sessionEffect keylen len (rdropEffect (sessionEffect keylen len s))) :=
        runCommands_session ((rdropEffect_err _).trans herr) rfl hpos hle hlen []
  · simp only [sessionEffect_data, rdropEffect_data, rdropEffect_rkey, sessionEffect_rkey, combine_combine]
  · simp only [sessionEffect_rkey, rdropEffect_rkey]
  · simp only [sessionEffect_err, rdropEffect_err, hs]
  · simp only [sessionEffect_nbyte, rdropEffect_nbyte, BitVec.add_assoc, ← BitVec.ofNat_add, ← Nat.two_mul]

end Sys2Proof.Machine
end

section
/-! The combiner command `KXOR` (R200 to R202): what it raises, the bytes it writes on plain numbers, and that it is its own
inverse. -/

namespace Sys2Proof.Machine

open Sys2Proof

/-! ### Outcomes -/

section

variable {s : State} (hs : s.err = false) {off len : Nat}

include hs

theorem exec_kxor (hlen : len ≤ 64) (hend : off + len ≤ 256) : exec (.kxor off len) s = .next (kxorEffect off len s) :=
  exec_effect hs (if_neg (not_or.mpr ⟨Nat.not_lt.mpr hlen, Nat.not_lt.mpr hend⟩)) rfl

theorem exec_kxor_out_of_range (hrange : 64 < len ∨ 256 < off + len) :
    exec (.kxor off len) s = .next (s.raise .lenRange) :=
  exec_operandError hs (if_pos hrange)

end

/-! ### The bytes of `DATA` -/

/-- `DATA` after a `KXOR` on numbers: in the range byte `off + m` meets byte `m` of the serialized `X` (R201). -/
theorem bytes_kxorEffect_data (s : State) {off len k : Nat} (hlen : len ≤ 64) (hk : k < 256) :
    Spec.bytes (kxorEffect off len s).data k =
      if off ≤ k ∧ k < off + len then Spec.bytes s.data k ^^^ Spec.serByte (Spec.words s.x) (k - off)
      else Spec.bytes s.data k := by
  have hlength : ((ser s.x).take len).length = len := by rw [List.length_take, ser_length, Nat.min_eq_left hlen]
  rw [bytes_of_lt _ hk, bytes_of_lt _ hk, kxorEffect]
  split_ifs with hin
  · have hinside : off ≤ k ∧ k - off < ((ser s.x).take len).length := by omega
    rw [combine_getElem, dif_pos hinside, BitVec.toNat_xor, List.getElem_take, toNat_ser_getElem _ (by omega)]
  · rw [combine_getElem_outside _ hlength.le hk hin]

/-- Settles O46: a length or range that does not fit is the command's operand error; otherwise each byte in the range meets its
byte of the serialized `X`. -/
theorem kxorCombinesTheBlock : Obligations.KxorCombinesTheBlock := by
  intro s off len hs
  exact ⟨exec_kxor_out_of_range hs, fun _ _ _ => encode_eq_add (op := 0x40) rfl,
    fun hlen hend => ⟨_, exec_kxor hs hlen hend, fun k hk => bytes_kxorEffect_data s hlen hk, rfl⟩⟩

/-! ### Twice -/

/-- The first `KXOR` leaves `X`, so the second combines with the same bytes and undoes it (R202). -/
theorem kxorEffect_kxorEffect (off len : Nat) (s : State) : kxorEffect off len (kxorEffect off len s) = s := by
  simp only [kxorEffect, combine_combine]

/-- Settles O47: both commands run, and the second effect undoes the first. -/
theorem kxorTwiceRestoresTheData : Obligations.KxorTwiceRestoresTheData := by
  intro s off len hs hlen hend
  calc runCommands [.kxor off len, .kxor off len] s
    _ = runCommands [.kxor off len] (kxorEffect off len s) := runCommands_cons (exec_kxor hs hlen hend)
    _ = .next (kxorEffect off len (kxorEffect off len s)) :=
      runCommands_cons (exec_kxor ((effectOf_err s (.kxor off len)).trans hs) hlen hend)
    _ = .next s := by rw [kxorEffect_kxorEffect]

end Sys2Proof.Machine
end

section
/-! While `ERR = 1` commands are ignored; a command that raises sets the error flags and changes nothing else (R212, R213). -/

namespace Sys2Proof.Machine

open Sys2Proof

/-! ### Ignored -/

theorem executeWord_ignored (w : Word) {s : State} (hs : s.err = true) : executeWord w s = .next s := by
  cases hw : decode w with
  | ok i => rw [executeWord_of_decode hw, exec_ignored i hs]
  | error e => rw [executeWord_of_decode_error hw, command_ignored _ _ _ _ hs]

/-- Settles O13: the prelude's first step comes before anything the word could do, and then the port answers. -/
theorem commandsAreIgnoredWhileErrIsSet : Obligations.CommandsAreIgnoredWhileErrIsSet := by
  intro s w rest hs
  rw [step_cons, perform_memWrite, memWrite_cmd, executeWord_ignored w (s := { s with script := rest }) hs]
  rfl

/-! ### Raised -/

/-- A command that leaves `ERR` clear has passed its checks and had its effect. -/
theorem exec_of_no_error {i : Instr} {s t : State} (hs : s.err = false) (h : exec i s = .next t) (ht : t.err = false) :
    operandErrorOf i = none ∧ stateErrorOf s i = none ∧ t = effectOf s i := by
  rcases exec_cases h with ⟨herr, _⟩ | ⟨_, code, _, rfl⟩ | ⟨_, hran⟩
  · simp [hs] at herr
  · simp at ht
  · exact hran

theorem exec_of_error {i : Instr} {s t : State} (hs : s.err = false) (h : exec i s = .next t) (ht : t.err = true) :
    ∃ code, code ≠ .none ∧ t = s.raise code := by
  rcases exec_cases h with ⟨herr, _⟩ | ⟨_, code, hcode, rfl⟩ | ⟨_, _, _, rfl⟩
  · simp [hs] at herr
  · exact ⟨code, raisedCode_ne_none hcode, rfl⟩
  · simp [effectOf_err, hs] at ht

theorem executeWord_of_error {w : Word} {s t : State} (hs : s.err = false) (h : executeWord w s = .next t)
    (ht : t.err = true) : ∃ code, code ≠ .none ∧ t = s.raise code := by
  rcases executeWord_cases h with ⟨_, _, hexec⟩ | ⟨_, _, herr, _⟩ | ⟨_, _, _, rfl⟩
  · exact exec_of_error hs hexec ht
  · simp [hs] at herr
  · exact ⟨.illegalCmd, by decide, rfl⟩

/-- Settles O15: a word that sets `ERR` has done nothing but raise one of the codes of R211, and then the port answers. -/
theorem raisingChangesOnlyTheErrorFlags : Obligations.RaisingChangesOnlyTheErrorFlags := by
  intro s t w rest hs h ht
  rw [step_cons, perform_memWrite, memWrite_cmd] at h
  obtain ⟨u, hu, rfl⟩ := answered_eq_next.mp h
  obtain ⟨code, hcode, rfl⟩ := executeWord_of_error (s := { s with script := rest }) hs hu ht
  exact ⟨hcode, rfl⟩

end Sys2Proof.Machine
end

section
/-! The error flag and the two counters through one step: a reset clears them, a command may change them, and nothing else does
(R35, R38, R215, R220). -/

namespace Sys2Proof.Machine

open Sys2Proof

/-! ### What a step can do to them -/

/-- The next host action is `Reset` or a soft reset through `CTRL` (R38). -/
def State.ResetsNext (s : State) : Prop :=
  ∃ rest, s.script = .reset :: rest ∨ ∃ v : Word, v.getLsbD 0 = true ∧ s.script = .memWrite 0x008 .word v :: rest

/-- The error flag and the two generation counters (R34, R35). -/
def State.errAndCounters (s : State) : Bool × Word × Word := (s.err, s.nblk, s.nbyte)

theorem State.errAndCounters_eq {s t : State} :
    t.errAndCounters = s.errAndCounters ↔ t.err = s.err ∧ t.nblk = s.nblk ∧ t.nbyte = s.nbyte := by
  simp [State.errAndCounters]

/-- A write that reaches neither `CMD` nor `CTRL` stores in another register or is refused. -/
theorem writeReg_errAndCounters {r : Reg} (hcmd : r ≠ .cmd) (hctrl : r ≠ .ctrl) {v : Word} {s t : State}
    (h : writeReg v s r = .next t) : t.errAndCounters = s.errAndCounters := by
  cases r with
  | cmd => exact absurd rfl hcmd
  | ctrl => exact absurd rfl hctrl
  | _ => cases h; rfl

theorem eq_of_target {a b : Addr} {width : Width} {r : Reg} (h : target a width = some r) (hb : b.toNat = r.address) :
    a = b :=
  BitVec.eq_of_toNat_eq ((address_of_target h).2.trans hb.symm)

/-- Everything a write can do to the error flag and the counters. -/
theorem memWrite_cases {a : Addr} {width : Width} {v : Word} {s t : State} (h : memWrite a width v s = .next t) :
    (v.getLsbD 0 = true ∧ a = 0x008 ∧ width = .word ∧ Spec.ResetValues t) ∨
    (a = 0x000 ∧ width = .word ∧ ∃ u, executeWord v s = .next u ∧ u.respond .ok = t) ∨
    t.errAndCounters = s.errAndCounters := by
  cases hr : target a width with
  | none =>
    rw [memWrite_of_no_target hr] at h
    cases h
    exact .inr (.inr rfl)
  | some r =>
    obtain ⟨hword, -⟩ := address_of_target hr
    rw [memWrite_of_target hr] at h
    by_cases hcmd : r = .cmd
    · subst hcmd
      exact .inr (.inl ⟨eq_of_target hr rfl, hword, answered_eq_next.mp h⟩)
    by_cases hctrl : r = .ctrl
    · subst hctrl
      cases h
      cases hv : v.getLsbD 0 with
      | true =>
        rw [writeCtrl_of_bit_set hv]
        exact .inl ⟨rfl, eq_of_target hr rfl, hword, respond_resetValues (resetCore_resetValues s) .ok⟩
      | false =>
        rw [writeCtrl_of_bit_clear hv]
        exact .inr (.inr rfl)
    · exact .inr (.inr (writeReg_errAndCounters hcmd hctrl h))

/-- Everything a step can do to the error flag and the counters: it resets, it executes a command word, or it leaves them. -/
theorem step_cases {s t : State} (h : step s = .next t) :
    (s.ResetsNext ∧ Spec.ResetValues t) ∨
    (∃ w rest, s.script = .memWrite 0x000 .word w :: rest ∧
      ∃ u, executeWord w { s with script := rest } = .next u ∧ u.respond .ok = t) ∨
    t.errAndCounters = s.errAndCounters := by
  cases hscript : s.script with
  | nil =>
    cases (step_of_script_nil hscript).symm.trans h
    exact .inr (.inr rfl)
  | cons action rest =>
    rw [step_of_script_cons hscript] at h
    cases action with
    | reset =>
      cases h
      exact .inl ⟨⟨rest, .inl hscript⟩, resetCore_resetValues _⟩
    | memRead a width =>
      cases h
      exact .inr (.inr rfl)
    | memWrite a width v =>
      rcases memWrite_cases h with ⟨hv, rfl, rfl, hreset⟩ | ⟨rfl, rfl, hcommand⟩ | hkeeps
      · exact .inl ⟨⟨rest, .inr ⟨v, hv, hscript⟩⟩, hreset⟩
      · exact .inr (.inl ⟨v, rest, rfl, hcommand⟩)
      · exact .inr (.inr hkeeps)

/-! ### Leaving the error state -/

/-- Settles O16: of the three things a step can do, a command is ignored while `ERR = 1`, and only a reset clears it. -/
theorem onlyResetClearsErr : Obligations.OnlyResetClearsErr := by
  intro s t hs h ht
  rcases step_cases h with hreset | ⟨w, rest, -, u, hu, rfl⟩ | hkeeps
  · exact hreset
  · cases (executeWord_ignored w (s := { s with script := rest }) hs).symm.trans hu
    simp [hs] at ht
  · obtain ⟨herr, -⟩ := State.errAndCounters_eq.mp hkeeps
    simp [herr, hs] at ht

/-! ### The counters -/

theorem effectOf_nblk (s : State) (i : Instr) : (effectOf s i).nblk = (s.countBlocks (Spec.blocksOf i)).nblk := by
  cases i with
  | cblock | sblock => simp only [effectOf, cblockEffect, sblockEffect, Spec.blocksOf, State.countBlocks_nblk]
  | cxcrypt len =>
    simp only [effectOf, cxcryptEffect]
    split <;> simp only [Spec.blocksOf, ceilDiv64, State.countBlocks_nblk]
  | _ =>
    simp only [State.countBlocks_nblk, Spec.blocksOf, BitVec.ofNat_eq_ofNat, BitVec.add_zero, effectOf, xcopyEffect, xaddEffect,
      cinitEffect, cqrEffect, cdrEffect, sqrEffect, sdrEffect, rksaEffect, rnextEffect, rxcryptEffect, rdropEffect, kxorEffect,
      State.countBytes_nblk, State.withContext_nblk]

theorem effectOf_nbyte (s : State) (i : Instr) : (effectOf s i).nbyte = (s.countBytes (Spec.bytesOf i)).nbyte := by
  cases i with
  | rnext | rxcrypt =>
    simp only [effectOf, rnextEffect, rxcryptEffect, Spec.bytesOf, State.countBytes_nbyte, State.withContext_nbyte]
  | cxcrypt len =>
    simp only [effectOf, cxcryptEffect]
    split <;> simp [Spec.bytesOf]
  | _ =>
    simp only [State.countBytes_nbyte, Spec.bytesOf, BitVec.ofNat_eq_ofNat, BitVec.add_zero, effectOf, xcopyEffect, xaddEffect,
      cinitEffect, cqrEffect, cdrEffect, cblockEffect, sqrEffect, sdrEffect, sblockEffect, rksaEffect, rdropEffect, kxorEffect,
      State.countBlocks_nbyte]

/-- A command that is ignored or raises counts nothing. -/
theorem exec_counters_of_error {i : Instr} {s t : State} (h : exec i s = .next t) (herr : s.err = true ∨ t.err = true) :
    t.nblk = s.nblk ∧ t.nbyte = s.nbyte := by
  rcases exec_cases h with ⟨_, rfl⟩ | ⟨_, code, _, rfl⟩ | ⟨hs, _, _, rfl⟩
  · exact ⟨rfl, rfl⟩
  · exact ⟨rfl, rfl⟩
  · simp [effectOf_err, hs] at herr

/-- Settles O19: each effect adds its entries of the table; without an effect nothing is counted; a step without a command resets
the counters or leaves them. -/
theorem countersAdvanceByTheTable : Obligations.CountersAdvanceByTheTable := by
  refine ⟨fun i s t h => ⟨fun ⟨hs, ht⟩ => ?_, exec_counters_of_error h⟩, fun s t h hcmd => ?_⟩
  · obtain ⟨-, -, rfl⟩ := exec_of_no_error hs h ht
    rw [effectOf_nblk, effectOf_nbyte]
    exact ⟨toNat_countBlocks _ s, toNat_countBytes _ s⟩
  · rcases step_cases h with ⟨hnext, hreset⟩ | ⟨w, rest, hscript, -⟩ | hkeeps
    · obtain ⟨-, -, -, -, -, -, -, -, -, -, -, hnblk, hnbyte⟩ := hreset
      exact .inr ⟨hnblk, hnbyte, hnext⟩
    · exact absurd hscript (hcmd w rest)
    · exact .inl (State.errAndCounters_eq.mp hkeeps).2

end Sys2Proof.Machine
end

section
/-! The word engine and the RC4 context share no state (R222): each side's commands neither read nor write what the other's
write, so their effects commute. -/

namespace Sys2Proof.Machine

open Sys2Proof

/-! ### What each side writes -/

/-- `s` with the state that word-engine commands write taken from `u` (R45). -/
def State.withWordEngineOf (s u : State) : State := { s with st := u.st, x := u.x, nblk := u.nblk }

/-- `s` with the state that RC4 commands write taken from `u` (R45). -/
def State.withRc4Of (s u : State) : State :=
  { s with perm := u.perm, ri := u.ri, rj := u.rj, rphase := u.rphase, ksb := u.ksb, data := u.data, nbyte := u.nbyte }

theorem withWordEngineOf_withRc4Of (s u v : State) :
    (s.withWordEngineOf u).withRc4Of v = (s.withRc4Of v).withWordEngineOf u := rfl

section

variable {i : Instr} (hi : Spec.wordEngine i = true)

include hi

theorem rc4Command_of_wordEngine : Spec.rc4Command i = false := by
  cases i with
  | rksa | rnext | rxcrypt | rdrop => cases hi
  | _ => rfl

theorem stateErrorOf_of_wordEngine (s : State) : stateErrorOf s i = none := by
  cases i with
  | rksa | rnext | rxcrypt => cases hi
  | _ => rfl

theorem effectOf_of_wordEngine (s : State) : effectOf s i = s.withWordEngineOf (effectOf s i) := by
  cases i with
  | cxcrypt | kxor | rksa | rnext | rxcrypt | rdrop => cases hi
  | _ =>
    simp only [effectOf, xcopyEffect, xaddEffect, cinitEffect, cqrEffect, cdrEffect, cblockEffect, sqrEffect, sdrEffect,
      sblockEffect, State.countBlocks, State.withWordEngineOf]

/-- The word engine does not read the RC4 commands' state. -/
theorem effectOf_withRc4Of (s u : State) : effectOf (s.withRc4Of u) i = (effectOf s i).withRc4Of u := by
  cases i with
  | cxcrypt | kxor | rksa | rnext | rxcrypt | rdrop => cases hi
  | _ =>
    simp only [effectOf, xcopyEffect, xaddEffect, cinitEffect, cqrEffect, cdrEffect, cblockEffect, sqrEffect, sdrEffect,
      sblockEffect, State.countBlocks, State.withRc4Of]

end

section

variable {j : Instr} (hj : Spec.rc4Command j = true)

include hj

theorem effectOf_of_rc4Command (s : State) : effectOf s j = s.withRc4Of (effectOf s j) := by
  cases j with
  | rksa | rnext | rxcrypt | rdrop =>
    simp only [effectOf, rksaEffect, rnextEffect, rxcryptEffect, rdropEffect, State.countBytes, State.withContext,
      State.withRc4Of]
  | _ => cases hj

/-- The RC4 commands do not read the word engine's state. -/
theorem effectOf_withWordEngineOf (s u : State) :
    effectOf (s.withWordEngineOf u) j = (effectOf s j).withWordEngineOf u := by
  cases j with
  | rksa | rnext | rxcrypt | rdrop =>
    simp only [effectOf, rksaEffect, rnextEffect, rxcryptEffect, rdropEffect, State.countBytes, State.withContext,
      State.context, State.withWordEngineOf]
  | _ => cases hj

end

/-! ### Either order -/

/-- Each effect writes its own side of the state and leaves what the other reads. -/
theorem effectOf_comm {i j : Instr} (hi : Spec.wordEngine i = true) (hj : Spec.rc4Command j = true) (s : State) :
    effectOf (effectOf s j) i = effectOf (effectOf s i) j :=
  calc effectOf (effectOf s j) i
    _ = effectOf (s.withRc4Of (effectOf s j)) i := by rw [← effectOf_of_rc4Command hj]
    _ = (effectOf s i).withRc4Of (effectOf s j) := effectOf_withRc4Of hi s _
    _ = (s.withWordEngineOf (effectOf s i)).withRc4Of (effectOf s j) := by rw [← effectOf_of_wordEngine hi]
    _ = (s.withRc4Of (effectOf s j)).withWordEngineOf (effectOf s i) := withWordEngineOf_withRc4Of ..
    _ = (effectOf s j).withWordEngineOf (effectOf s i) := by rw [← effectOf_of_rc4Command hj]
    _ = effectOf (s.withWordEngineOf (effectOf s i)) j := (effectOf_withWordEngineOf hj s _).symm
    _ = effectOf (effectOf s i) j := by rw [← effectOf_of_wordEngine hi]

/-- The checks of step 5 read the phase only (R171). -/
theorem stateErrorOf_congr {s t : State} (h : t.rphase = s.rphase) (j : Instr) : stateErrorOf t j = stateErrorOf s j := by
  cases j with
  | rksa => simp only [stateErrorOf, needsFresh, h]
  | rnext | rxcrypt => simp only [stateErrorOf, needsContext, h]
  | _ => rfl

/-- Two commands whose checks pass, the second's after the first, have their effects one after the other. -/
theorem runCommands_pair {i j : Instr} {s : State} (hs : s.err = false) (hi : operandErrorOf i = none)
    (hj : operandErrorOf j = none) (his : stateErrorOf s i = none) (hjs : stateErrorOf (effectOf s i) j = none) :
    runCommands [i, j] s = .next (effectOf (effectOf s i) j) :=
  calc runCommands [i, j] s
    _ = runCommands [j] (effectOf s i) := runCommands_cons (exec_effect hs hi his)
    _ = .next (effectOf (effectOf s i) j) := runCommands_cons (exec_effect ((effectOf_err s i).trans hs) hj hjs)

/-- Settles O48: neither effect makes a check of the other command fail, and the two effects commute. -/
theorem wordEngineAndRc4Commute : Obligations.WordEngineAndRc4Commute := by
  intro i j s t u hi hj hs hexec ht hexec' hu
  obtain ⟨hio, his, -⟩ := exec_of_no_error hs hexec ht
  obtain ⟨hjo, hjs, -⟩ := exec_of_no_error hs hexec' hu
  have hphase : (effectOf s i).rphase = s.rphase := effectOf_rphase (rc4Command_of_wordEngine hi) s
  refine ⟨effectOf (effectOf s i) j, ?_, ?_⟩
  · exact runCommands_pair hs hio hjo his ((stateErrorOf_congr hphase j).trans hjs)
  · rw [runCommands_pair hs hjo hio hjs (stateErrorOf_of_wordEngine hi _), effectOf_comm hi hj]

end Sys2Proof.Machine
end

section
/-! The words of V40, read back by the encoder's formulas (R101). -/

namespace Sys2Proof

/-- Settles O5: each command is well formed and R101's formula for it gives the word, so the word decodes to it. -/
theorem specWordsDecode : Obligations.SpecWordsDecode := by
  refine ⟨?xcopy, ?xadd, ?cinit, ?cqr, ?cdr, ?cblock, ?cxcrypt, ?sqr, ?sdr, ?sblock, ?rksa, ?rnext, ?rxcrypt, ?rdrop, ?kxor⟩
  all_goals
    rw [decode_eq_ok_iff_encode_eq]
    decide

end Sys2Proof
end
